-- ==== Sys2Proof/Word.lean ====
section
/-! DEFINITION. The word types: octets, ports, and the 64-bit value held as two 32-bit halves (10_state.md R10, R11).
A FixedWidthUint(W) of R10 is a bit vector of length W. -/

namespace Sys2Proof

/-- An octet, an integer in 0 .. 255 (20_memory.md R20). -/
abbrev Octet := BitVec 8

/-- A FixedWidthUint(W) (R10): a bit vector of length W, so that no value outside 0 .. 2^W - 1 can be built. -/
abbrev FixedWidthUint (w : Nat) := BitVec w

/-- The ordered pair (high, low) of R11; it stands for the integer high * 2^32 + low. -/
structure Wide64 where
  high : FixedWidthUint 32
  low  : FixedWidthUint 32
deriving DecidableEq, Repr

end Sys2Proof
end

