-- ==== Sys2Proof/Config.lean ====
section
/-! DEFINITION. What the spec leaves to an implementation or leaves unspecified: the value of TONUM above 2^53 - 1 and the
size of the byte-sequence port. Neither has a body, so no proof can see what it is. -/

namespace Sys2Proof.Config

/-- The unspecified value u of TONUM.64 (46_wide64_convert_compare.md R133, 93_implementation_defined.md U1): the k-th draw
of a run, for the operand `x`. FREE VALUE: no body, so nothing is known of it. Log entry 5. -/
opaque tonumDraw (k : Nat) (x : BitVec 64) : BitVec 64

/-- By how much BUF_MAX exceeds its least value 8 (00_scope.md R4, decision D6, OPEN parameter). Log entry 6. -/
opaque bufRoom : Nat

/-- BUF_MAX (R4): the largest LEN the byte-sequence port can carry; any natural number that is at least 8. -/
def bufMax : Nat := 8 + bufRoom

end Sys2Proof.Config
end

