-- ==== Sys2Proof/Syntax.lean ====
section
/-! DEFINITION. The syntax: widths, operations, formats and the 50 commands, one constructor of Instr per row of
spec/opcode_table.json (00_scope.md R1, R2; 30_encoding.md R41, R44). A command has no operand fields: its operands travel on
the ports of the transaction (R39). -/

namespace Sys2Proof

/-- The three operand widths (R1). -/
inductive Width where
  | w16 | w32 | w64
deriving DecidableEq, Repr

/-- W as a number of bits. -/
def Width.bits : Width → Nat
  | .w16 => 16
  | .w32 => 32
  | .w64 => 64

/-- The twenty operations of R41. -/
inductive Op where
  | mask
  | and
  | or
  | xor
  | not
  | lshift
  | rshift
  | arshift
  | rol
  | ror
  | add
  | tobe
  | tole
  | frombe
  | fromle
  | eq
  | iszero
  | tonum
  | tonums
  | fromnum
deriving DecidableEq, Repr

/-- The operand formats of R44. -/
inductive Format where
  | u | bin | sh | ser | par
deriving DecidableEq, Repr

/-- The format of each operation (R41, R44). -/
def Op.format : Op → Format
  | .mask => .u
  | .and => .bin
  | .or => .bin
  | .xor => .bin
  | .not => .u
  | .lshift => .sh
  | .rshift => .sh
  | .arshift => .sh
  | .rol => .sh
  | .ror => .sh
  | .add => .bin
  | .tobe => .ser
  | .tole => .ser
  | .frombe => .par
  | .fromle => .par
  | .eq => .bin
  | .iszero => .u
  | .tonum => .u
  | .tonums => .u
  | .fromnum => .u

/-- The input ports a command can read besides CMD (R31). -/
inductive InPort where
  | a | b | n | off | buf
deriving DecidableEq, Repr

/-- The input ports each format reads (R44); LEN is the length of BUF and goes with it. -/
def Format.reads : Format → List InPort
  | .u   => [.a]
  | .bin => [.a, .b]
  | .sh  => [.a, .n]
  | .ser => [.a]
  | .par => [.buf, .off]

/-- The mnemonic of an operation, without its width suffix (R41). -/
def Op.mnemonic : Op → String
  | .mask => "MASK"
  | .and => "AND"
  | .or => "OR"
  | .xor => "XOR"
  | .not => "NOT"
  | .lshift => "LSHIFT"
  | .rshift => "RSHIFT"
  | .arshift => "ARSHIFT"
  | .rol => "ROL"
  | .ror => "ROR"
  | .add => "ADD"
  | .tobe => "TOBE"
  | .tole => "TOLE"
  | .frombe => "FROMBE"
  | .fromle => "FROMLE"
  | .eq => "EQ"
  | .iszero => "ISZERO"
  | .tonum => "TONUM"
  | .tonums => "TONUMS"
  | .fromnum => "FROMNUM"

/-- The source's name of an operation (R46); MASK is the source's mask_W. -/
def Op.sourceName : Op → String
  | .mask => "mask_W"
  | .and => "and"
  | .or => "or"
  | .xor => "xor"
  | .not => "not"
  | .lshift => "lshift"
  | .rshift => "rshift"
  | .arshift => "arshift"
  | .rol => "rol"
  | .ror => "ror"
  | .add => "add"
  | .tobe => "to_be_bytes"
  | .tole => "to_le_bytes"
  | .frombe => "from_be_bytes"
  | .fromle => "from_le_bytes"
  | .eq => "eq"
  | .iszero => "is_zero"
  | .tonum => "to_number"
  | .tonums => "to_number_strict"
  | .fromnum => "from_number"

/-- One operation at one width, legal or not (R47 writes it legal(op, W)). -/
structure Command where
  op    : Op
  width : Width
deriving DecidableEq, Repr

/-- The 50 commands, one per row of the opcode table. -/
inductive Instr where
  | mask16
  | and16
  | or16
  | xor16
  | not16
  | lshift16
  | rshift16
  | arshift16
  | rol16
  | ror16
  | add16
  | tobe16
  | tole16
  | frombe16
  | fromle16
  | mask32
  | and32
  | or32
  | xor32
  | not32
  | lshift32
  | rshift32
  | arshift32
  | rol32
  | ror32
  | add32
  | tobe32
  | tole32
  | frombe32
  | fromle32
  | mask64
  | and64
  | or64
  | xor64
  | not64
  | lshift64
  | rshift64
  | arshift64
  | rol64
  | ror64
  | add64
  | tobe64
  | tole64
  | frombe64
  | fromle64
  | eq64
  | iszero64
  | tonum64
  | tonums64
  | fromnum64
deriving DecidableEq, Repr

/-- The operation and the width of each command. -/
def Instr.command : Instr → Command
  | .mask16 => ⟨.mask, .w16⟩
  | .and16 => ⟨.and, .w16⟩
  | .or16 => ⟨.or, .w16⟩
  | .xor16 => ⟨.xor, .w16⟩
  | .not16 => ⟨.not, .w16⟩
  | .lshift16 => ⟨.lshift, .w16⟩
  | .rshift16 => ⟨.rshift, .w16⟩
  | .arshift16 => ⟨.arshift, .w16⟩
  | .rol16 => ⟨.rol, .w16⟩
  | .ror16 => ⟨.ror, .w16⟩
  | .add16 => ⟨.add, .w16⟩
  | .tobe16 => ⟨.tobe, .w16⟩
  | .tole16 => ⟨.tole, .w16⟩
  | .frombe16 => ⟨.frombe, .w16⟩
  | .fromle16 => ⟨.fromle, .w16⟩
  | .mask32 => ⟨.mask, .w32⟩
  | .and32 => ⟨.and, .w32⟩
  | .or32 => ⟨.or, .w32⟩
  | .xor32 => ⟨.xor, .w32⟩
  | .not32 => ⟨.not, .w32⟩
  | .lshift32 => ⟨.lshift, .w32⟩
  | .rshift32 => ⟨.rshift, .w32⟩
  | .arshift32 => ⟨.arshift, .w32⟩
  | .rol32 => ⟨.rol, .w32⟩
  | .ror32 => ⟨.ror, .w32⟩
  | .add32 => ⟨.add, .w32⟩
  | .tobe32 => ⟨.tobe, .w32⟩
  | .tole32 => ⟨.tole, .w32⟩
  | .frombe32 => ⟨.frombe, .w32⟩
  | .fromle32 => ⟨.fromle, .w32⟩
  | .mask64 => ⟨.mask, .w64⟩
  | .and64 => ⟨.and, .w64⟩
  | .or64 => ⟨.or, .w64⟩
  | .xor64 => ⟨.xor, .w64⟩
  | .not64 => ⟨.not, .w64⟩
  | .lshift64 => ⟨.lshift, .w64⟩
  | .rshift64 => ⟨.rshift, .w64⟩
  | .arshift64 => ⟨.arshift, .w64⟩
  | .rol64 => ⟨.rol, .w64⟩
  | .ror64 => ⟨.ror, .w64⟩
  | .add64 => ⟨.add, .w64⟩
  | .tobe64 => ⟨.tobe, .w64⟩
  | .tole64 => ⟨.tole, .w64⟩
  | .frombe64 => ⟨.frombe, .w64⟩
  | .fromle64 => ⟨.fromle, .w64⟩
  | .eq64 => ⟨.eq, .w64⟩
  | .iszero64 => ⟨.iszero, .w64⟩
  | .tonum64 => ⟨.tonum, .w64⟩
  | .tonums64 => ⟨.tonums, .w64⟩
  | .fromnum64 => ⟨.fromnum, .w64⟩

/-- The operation of a command. -/
def Instr.op (i : Instr) : Op := i.command.op

/-- The width of a command. -/
def Instr.width (i : Instr) : Width := i.command.width

/-- The input ports a command reads; it ignores every other one (R38, R44). -/
def Instr.reads (i : Instr) : List InPort := i.op.format.reads

end Sys2Proof
end

