-- ==== Sys2Proof/WellFormed.lean ====
section
/-! DEFINITION. Which pairs of operation and width are commands (30_encoding.md R41, R42 (d), R47). -/

namespace Sys2Proof

/-- The operations that exist at W = 64 only (R41: OP 0x10 to 0x14). -/
def Op.only64 : Op → Bool
  | .eq | .iszero | .tonum | .tonums | .fromnum => true
  | .mask | .and | .or | .xor | .not | .lshift | .rshift | .arshift | .rol | .ror | .add
  | .tobe | .tole | .frombe | .fromle => false

/-- legal(op, W) of R47: a 64-bit-only operation has W = 64. -/
def Command.wf (c : Command) : Bool := !c.op.only64 || decide (c.width = .w64)

/-- A command of the table is well formed when its pair of operation and width is legal. -/
def Instr.wf (i : Instr) : Bool := i.command.wf

end Sys2Proof
end

