-- ==== Sys2Proof/Decode.lean ====
section
/-! DEFINITION. The decoder, total on all 256 bytes and rejecting each illegal byte by name, and the encoder (30_encoding.md
R39 to R43, R47). -/

namespace Sys2Proof

/-- Why a command byte is illegal (R42 (a) to (d)). -/
inductive DecodeError where
  /-- (a): Z = 1. -/
  | topBitSet
  /-- (b): WSEL = 11. -/
  | reservedWidth
  /-- (c): OP = 0x0F or OP in 0x15 to 0x1F. -/
  | reservedOp
  /-- (d): OP in 0x10 to 0x14 at W = 16 or 32. -/
  | only64
deriving DecidableEq, Repr

/-- Field Z, bit 7 of the command byte (R39). -/
def fieldZ (c : BitVec 8) : Bool := c.getLsbD 7

/-- Field WSEL, bits 6:5 of the command byte (R39). -/
def fieldWsel (c : BitVec 8) : BitVec 2 := c.extractLsb' 5 2

/-- Field OP, bits 4:0 of the command byte (R39). -/
def fieldOp (c : BitVec 8) : BitVec 5 := c.extractLsb' 0 5

/-- The value of WSEL for each width (R40). -/
def Width.wsel : Width → Nat
  | .w16 => 0
  | .w32 => 1
  | .w64 => 2

/-- The width WSEL selects; 11 is reserved (R40). -/
def widthOfWsel (f : BitVec 2) : Option Width :=
  match f.toNat with
  | 0 => some .w16
  | 1 => some .w32
  | 2 => some .w64
  | _ => none

/-- The value of OP for each operation (R41). -/
def Op.code : Op → Nat
  | .mask => 0x00
  | .and => 0x01
  | .or => 0x02
  | .xor => 0x03
  | .not => 0x04
  | .lshift => 0x05
  | .rshift => 0x06
  | .arshift => 0x07
  | .rol => 0x08
  | .ror => 0x09
  | .add => 0x0A
  | .tobe => 0x0B
  | .tole => 0x0C
  | .frombe => 0x0D
  | .fromle => 0x0E
  | .eq => 0x10
  | .iszero => 0x11
  | .tonum => 0x12
  | .tonums => 0x13
  | .fromnum => 0x14

/-- The operation OP selects; 0x0F and 0x15 to 0x1F are reserved (R41). -/
def opOfCode (f : BitVec 5) : Option Op :=
  match f.toNat with
  | 0x00 => some .mask
  | 0x01 => some .and
  | 0x02 => some .or
  | 0x03 => some .xor
  | 0x04 => some .not
  | 0x05 => some .lshift
  | 0x06 => some .rshift
  | 0x07 => some .arshift
  | 0x08 => some .rol
  | 0x09 => some .ror
  | 0x0A => some .add
  | 0x0B => some .tobe
  | 0x0C => some .tole
  | 0x0D => some .frombe
  | 0x0E => some .fromle
  | 0x10 => some .eq
  | 0x11 => some .iszero
  | 0x12 => some .tonum
  | 0x13 => some .tonums
  | 0x14 => some .fromnum
  | _ => none

/-- legal(op, W): the command of an operation at a width, where there is one (R41, R47). -/
def instrOfCommand (c : Command) : Option Instr :=
  match c.op, c.width with
  | .mask, .w16 => some .mask16
  | .mask, .w32 => some .mask32
  | .mask, .w64 => some .mask64
  | .and, .w16 => some .and16
  | .and, .w32 => some .and32
  | .and, .w64 => some .and64
  | .or, .w16 => some .or16
  | .or, .w32 => some .or32
  | .or, .w64 => some .or64
  | .xor, .w16 => some .xor16
  | .xor, .w32 => some .xor32
  | .xor, .w64 => some .xor64
  | .not, .w16 => some .not16
  | .not, .w32 => some .not32
  | .not, .w64 => some .not64
  | .lshift, .w16 => some .lshift16
  | .lshift, .w32 => some .lshift32
  | .lshift, .w64 => some .lshift64
  | .rshift, .w16 => some .rshift16
  | .rshift, .w32 => some .rshift32
  | .rshift, .w64 => some .rshift64
  | .arshift, .w16 => some .arshift16
  | .arshift, .w32 => some .arshift32
  | .arshift, .w64 => some .arshift64
  | .rol, .w16 => some .rol16
  | .rol, .w32 => some .rol32
  | .rol, .w64 => some .rol64
  | .ror, .w16 => some .ror16
  | .ror, .w32 => some .ror32
  | .ror, .w64 => some .ror64
  | .add, .w16 => some .add16
  | .add, .w32 => some .add32
  | .add, .w64 => some .add64
  | .tobe, .w16 => some .tobe16
  | .tobe, .w32 => some .tobe32
  | .tobe, .w64 => some .tobe64
  | .tole, .w16 => some .tole16
  | .tole, .w32 => some .tole32
  | .tole, .w64 => some .tole64
  | .frombe, .w16 => some .frombe16
  | .frombe, .w32 => some .frombe32
  | .frombe, .w64 => some .frombe64
  | .fromle, .w16 => some .fromle16
  | .fromle, .w32 => some .fromle32
  | .fromle, .w64 => some .fromle64
  | .eq, .w16 => none
  | .eq, .w32 => none
  | .eq, .w64 => some .eq64
  | .iszero, .w16 => none
  | .iszero, .w32 => none
  | .iszero, .w64 => some .iszero64
  | .tonum, .w16 => none
  | .tonum, .w32 => none
  | .tonum, .w64 => some .tonum64
  | .tonums, .w16 => none
  | .tonums, .w32 => none
  | .tonums, .w64 => some .tonums64
  | .fromnum, .w16 => none
  | .fromnum, .w32 => none
  | .fromnum, .w64 => some .fromnum64

/-- decode (R47): total on all 256 bytes; Z is looked at first, then WSEL, then OP. -/
def decode (c : BitVec 8) : Except DecodeError Instr :=
  if fieldZ c then .error .topBitSet
  else
    match widthOfWsel (fieldWsel c) with
    | none => .error .reservedWidth
    | some w =>
      match opOfCode (fieldOp c) with
      | none => .error .reservedOp
      | some op =>
        match instrOfCommand ⟨op, w⟩ with
        | none => .error .only64
        | some i => .ok i

/-- encode(op, W) = wsel(W) * 32 + op (R47); Z = 0 (R39). -/
def encode (i : Instr) : BitVec 8 := BitVec.ofNat 8 (i.width.wsel * 32 + i.op.code)

/-- The instruction the decoder reads from an instruction of `nbits` bits whose bits are `w`. Every command is one byte
(R43), so a row has 8 bits; no other length decodes. -/
def decodeTableWord (nbits w : Nat) : Option Instr :=
  if nbits = 8 then
    match decode (BitVec.ofNat 8 w) with
    | .ok i => some i
    | .error _ => none
  else none

end Sys2Proof
end

