-- ==== Sys2Proof/Machine/State.lean ====
section
/-! DEFINITION. The ports of a transaction, its answer, and the state of a run. The unit itself has no state (10_state.md
R12 to R19): what State holds is the transaction in hand, the host's transactions still to be presented, the answers given
so far, and the model's counter of unspecified values drawn. -/

namespace Sys2Proof.Machine

/-- The error kinds of the abstract layer: the source's three, and no other (00_scope.md R5, 60_exceptions.md R145). -/
inductive ErrorKind where
  | invalidArgument
  | insufficientData
  | precisionExceeded
deriving DecidableEq, Repr

/-- STATUS (R145). The codes 5, 6 and 7 are never produced, so there are five constructors (93_implementation_defined.md
U8). -/
inductive Status where
  | ok
  | invalidArgument
  | insufficientData
  | precisionExceeded
  | illegalCommand
deriving DecidableEq, Repr

/-- The address space of a transaction: the byte sequence BUF, octet i at address i (20_memory.md R20). -/
abbrev Memory := List Octet

/-- The input ports of a transaction (30_encoding.md R31); LEN is the length of BUF (R30). -/
structure Transaction where
  cmd : BitVec 8
  a   : BitVec 64
  b   : BitVec 64
  n   : BitVec 32
  off : BitVec 32
  buf : Memory
deriving DecidableEq, Repr

/-- The output ports of a transaction (R31); RB_LEN is the length of RB (R30). -/
structure Response where
  status : Status
  r      : BitVec 64
  rb     : List Octet
deriving DecidableEq, Repr

/-- The state of a run. `inp`: the input ports of the transaction in hand. `pending`: the transactions the host has still to
present, in order (R27, 70_reset_and_hazards.md R171). `answers`: the answers given so far, oldest first (R171). `draws`: the
model's own counter, how many unspecified TONUM values have been drawn (46_wide64_convert_compare.md R133). -/
structure State where
  inp     : Transaction
  pending : List Transaction
  answers : List Response
  draws   : Nat
deriving DecidableEq, Repr

/-- Why the machine could stop: for no reason. The four error conditions are answers, and the spec has no hang and no stuck
state (R146, R171), so this type has no constructor and a step never faults; that is safe. Log entry 8. -/
inductive Fault
deriving DecidableEq, Repr

/-- Why the model could refuse an instruction. -/
inductive Refusal where
  /-- Raised by an arm of exec whose instruction has no meaning yet; no arm raises it. Safe: the model stops. -/
  | notModelled (mnemonic : String)
deriving DecidableEq, Repr

/-- Every input port at zero and BUF empty: the value of `inp` before the first transaction. DESIGN CHOICE, log entry 4: the
spec gives the ports no reset value (R19). -/
def Transaction.zero : Transaction :=
  { cmd := 0#8, a := 0#64, b := 0#64, n := 0#32, off := 0#32, buf := [] }

/-- The machine right after reset: nothing presented, nothing answered (R19, R165). -/
def State.reset : State :=
  { inp := Transaction.zero, pending := [], answers := [], draws := 0 }

end Sys2Proof.Machine
end

