-- ==== Sys2Proof/Machine/Flags.lean ====
section
/-! DEFINITION. The unit has no flags and no condition codes (10_state.md R14). What it reports beside a result is STATUS,
and its two comparisons report a Boolean on R; both are computed here (60_exceptions.md R145, 30_encoding.md R36). -/

namespace Sys2Proof.Machine

/-- code(E), the STATUS of an error of the abstract layer (R30, R145). -/
def statusOf : ErrorKind → Status
  | .invalidArgument   => .invalidArgument
  | .insufficientData  => .insufficientData
  | .precisionExceeded => .precisionExceeded

/-- The 3-bit code on the STATUS port (R145). -/
def statusCode : Status → BitVec 3
  | .ok                => 0#3
  | .invalidArgument   => 1#3
  | .insufficientData  => 2#3
  | .precisionExceeded => 3#3
  | .illegalCommand    => 4#3

/-- A Boolean on port R: 1 for true, 0 for false (R36). -/
def boolBits (b : Bool) : BitVec 64 := if b then 1#64 else 0#64

/-- RB_LEN, the 4-bit length of RB: 0, 2, 4 or 8 (R31, R37). -/
def Response.rbLen (x : Response) : BitVec 4 := BitVec.ofNat 4 x.rb.length

end Sys2Proof.Machine
end

