-- ==== Sys2Proof/Machine/Operands.lean ====
section
/-! DEFINITION. What the input ports denote: the arguments of the abstract functions, as each format takes them from the
ports (30_encoding.md R32 to R35, R44), and the 64-bit value as a pair of halves (10_state.md R11). -/

namespace Sys2Proof.Machine

/-- val(high, low) = high * 2^32 + low (R11), as the 64-bit vector that carries it on a port (R33). -/
def wideVal (x : Wide64) : BitVec 64 := x.high ++ x.low

/-- pair(v) (R11): high = v[63:32], low = v[31:0] (R33). -/
def widePair (v : BitVec 64) : Wide64 := ⟨v.extractLsb' 32 32, v.extractLsb' 0 32⟩

/-- LEN (R30). -/
def Transaction.len (t : Transaction) : Nat := t.buf.length

/-- The integer `a` of port A: its unsigned reading. The two's-complement reading gives the same results at W = 16 and 32
(R32); at W = 64 the value is the unsigned one (R33). Log entry 10. -/
def intA (s : State) : Int := (s.inp.a.toNat : Int)

/-- The integer `b` of port B, read as A is (R32). -/
def intB (s : State) : Int := (s.inp.b.toNat : Int)

/-- The Wide64 operand on port A (R33). -/
def wideA (s : State) : Wide64 := widePair s.inp.a

/-- The Wide64 operand on port B (R33). -/
def wideB (s : State) : Wide64 := widePair s.inp.b

/-- The amount n = signed_32(N), in -2^31 .. 2^31 - 1 (R34). -/
def amount (s : State) : Int := s.inp.n.toInt

/-- The offset of a parse: the natural number on port OFF (R35). -/
def offset (s : State) : Nat := s.inp.off.toNat

/-- The byte sequence of a parse (R44): port BUF. -/
def bytes (s : State) : Memory := s.inp.buf

end Sys2Proof.Machine
end

