-- ==== Sys2Proof/Machine/Ops.lean ====
section
/-! DEFINITION. The operations every meaning is built from: reading octets of the byte sequence, answering a transaction,
reporting an error (the unit's only "exception"; there is none to return from, 60_exceptions.md R154, R156), presenting and
accepting a transaction. -/

namespace Sys2Proof.Machine

/-! ## The byte sequence -/

/-- The octet at an address; none outside the sequence (20_memory.md R20). -/
def octetAt (m : Memory) (addr : Nat) : Option Octet := m[addr]?

/-- The byte sequence as (address, octet) cells: addresses 0 to LEN - 1, each listed once, in rising order (R20). -/
def memoryCells (m : Memory) : List Host.Cell := (List.range m.length).zip m

/-- The canonical form of the cells: their addresses are exactly 0, 1, ..., LEN - 1, in that order. -/
def Memory.wf (m : Memory) : Bool := decide ((memoryCells m).map Prod.fst = List.range m.length)

/-- MemRead(addr, n) (R22): the n octets from addr on, defined iff addr + n <= LEN. The test is R95's, LEN - addr < n in
unbounded integers. -/
def memRead (m : Memory) (addr n : Nat) : Option (List Octet) :=
  if (m.length : Int) - (addr : Int) < (n : Int) then none else some ((m.drop addr).take n)

/-! ## The answer of a transaction -/

/-- A successful outcome of the abstract layer, as R30 distinguishes them. -/
inductive Value where
  /-- An integer, zero-extended to the 64 bits of R (R36). -/
  | int (v : BitVec 64)
  /-- A byte sequence, which goes on RB (R37). -/
  | octets (bs : List Octet)
  /-- A Boolean, 1 or 0 on R (R36). -/
  | bool (b : Bool)
deriving DecidableEq, Repr

/-- The answer that carries an integer on R, STATUS = OK (R30, R36). -/
def Response.int (v : BitVec 64) : Response := { status := .ok, r := v, rb := [] }

/-- The answer that carries octets on RB, STATUS = OK and R = 0 (R30, R37). -/
def Response.octets (bs : List Octet) : Response := { status := .ok, r := 0#64, rb := bs }

/-- The answer of a failed transaction: its status, R = 0 and RB_LEN = 0, no partial result (60_exceptions.md R146). -/
def Response.failed (st : Status) : Response := { status := st, r := 0#64, rb := [] }

/-- The answer for a successful outcome (R30). -/
def responseOf : Value → Response
  | .int v     => Response.int v
  | .octets bs => Response.octets bs
  | .bool b    => Response.int (boolBits b)

/-- The state after the transaction in hand is answered: the answer is added to the host's record and nothing else changes,
since nothing survives a transaction (10_state.md R16). -/
def State.answered (s : State) (x : Response) : State := { s with answers := s.answers ++ [x] }

/-- Reporting an error: STATUS is its code, R = 0, RB_LEN = 0, and nothing else happens; the next transaction behaves as if
the failing one had never been presented (R146). Shared by every error condition, IllegalCommand included (R150). -/
def State.failed (s : State) (st : Status) : State := s.answered (Response.failed st)

/-- The end of a transaction at the port layer: the outcome of the abstract function becomes (STATUS, R, RB) (R30). -/
def reply (s : State) (o : Except ErrorKind Value) : Host.Outcome State Fault Refusal :=
  match o with
  | .ok v    => .next (s.answered (responseOf v))
  | .error e => .next (s.failed (statusOf e))

/-- zext_64 of a canonical W-bit result (R36). -/
def bitsValue {w : Nat} (v : BitVec w) : Value := .int (v.setWidth 64)

/-- A Wide64 result as the value on R (R33). -/
def wideValue (x : Wide64) : Value := .int (wideVal x)

/-- `reply` for a function that cannot fail and gives a W-bit value. -/
def replyBits {w : Nat} (s : State) (v : BitVec w) : Host.Outcome State Fault Refusal := reply s (.ok (bitsValue v))

/-- `reply` for a function that cannot fail and gives a Wide64 value. -/
def replyWide (s : State) (x : Wide64) : Host.Outcome State Fault Refusal := reply s (.ok (wideValue x))

/-- `reply` for a function that cannot fail and gives octets. -/
def replyOctets (s : State) (bs : List Octet) : Host.Outcome State Fault Refusal := reply s (.ok (.octets bs))

/-- `reply` for a function that cannot fail and gives a Boolean. -/
def replyBool (s : State) (b : Bool) : Host.Outcome State Fault Refusal := reply s (.ok (.bool b))

/-- `reply` for a function that gives a W-bit value or fails. -/
def replyTryBits {w : Nat} (s : State) (o : Except ErrorKind (BitVec w)) : Host.Outcome State Fault Refusal :=
  reply s (o.map bitsValue)

/-- `reply` for a function that gives a Wide64 value or fails. -/
def replyTryWide (s : State) (o : Except ErrorKind Wide64) : Host.Outcome State Fault Refusal := reply s (o.map wideValue)

/-! ## Transactions -/

/-- The unspecified value of this transaction for the operand `x` (46_wide64_convert_compare.md R133): the next draw. -/
def State.nextDraw (s : State) (x : BitVec 64) : BitVec 64 := Config.tonumDraw s.draws x

/-- The state after a draw, so that a later transaction draws afresh (93_implementation_defined.md U1). -/
def State.drawn (s : State) : State := { s with draws := s.draws + 1 }

/-- The host presents its next transaction: its inputs are on the ports (30_encoding.md R30). -/
def State.accept (s : State) (t : Transaction) (rest : List Transaction) : State := { s with inp := t, pending := rest }

/-- The host adds a transaction to the end of its script. -/
def State.present (s : State) (t : Transaction) : State := { s with pending := s.pending ++ [t] }

/-- The command byte of the next transaction is set to `c`, its operands left as they are; where no transaction is pending,
one is, with the operands that stand on the ports. -/
def State.withNextCommand (s : State) (c : BitVec 8) : State :=
  match s.pending with
  | []        => { s with pending := [{ s.inp with cmd := c }] }
  | t :: rest => { s with pending := { t with cmd := c } :: rest }

/-- The answer to an illegal command byte, whatever the other inputs are (30_encoding.md R42, R150). -/
def illegalCommand (s : State) : Host.Outcome State Fault Refusal := .next (s.failed .illegalCommand)

end Sys2Proof.Machine
end

