-- ==== Sys2Proof/Machine/Mask.lean ====
section
/-! DEFINITION. The masking core (40_masking.md) and its three commands. -/

namespace Sys2Proof.Machine

/-- mask_W(n) = n mod 2^W, the non-negative residue, for any integer n (R50); exact (R53). -/
def maskW (w : Nat) (n : Int) : BitVec w := BitVec.ofNat w (n % (2 ^ w : Nat)).toNat

/-- The composite mask on a pair is the identity (45_wide64_composite.md R116). -/
def w64Mask (x : Wide64) : Wide64 := x

/-- MASK.16 (R51). -/
def execMask16 (s : State) : Host.Outcome State Fault Refusal := replyBits s (maskW 16 (intA s))

/-- MASK.32 (R51). -/
def execMask32 (s : State) : Host.Outcome State Fault Refusal := replyBits s (maskW 32 (intA s))

/-- MASK.64 (R116). -/
def execMask64 (s : State) : Host.Outcome State Fault Refusal := replyWide s (w64Mask (wideA s))

end Sys2Proof.Machine
end

