-- ==== Sys2Proof/Machine/Add.lean ====
section
/-! DEFINITION. The modular adder (43_add.md; at W = 64, 45_wide64_composite.md R117). -/

namespace Sys2Proof.Machine

/-- add_W(a, b) = mask_W(mask_W(a) + mask_W(b)) (R85): the inner sum is exact, the carry out is discarded. -/
def addW (w : Nat) (a b : Int) : BitVec w := maskW w (((maskW w a).toNat + (maskW w b).toNat : Nat) : Int)

/-- w64_add (R117): the low sum is not masked; it gives the carry into the high half. -/
def w64Add (x y : Wide64) : Wide64 :=
  let low := x.low.toNat + y.low.toNat
  let carry := if 2 ^ 32 ≤ low then 1 else 0
  let low' := if 2 ^ 32 ≤ low then low - 2 ^ 32 else low
  ⟨BitVec.ofNat 32 ((x.high.toNat + y.high.toNat + carry) % 2 ^ 32), BitVec.ofNat 32 low'⟩

/-- ADD.16 (R85). -/
def execAdd16 (s : State) : Host.Outcome State Fault Refusal := replyBits s (addW 16 (intA s) (intB s))

/-- ADD.32 (R85). -/
def execAdd32 (s : State) : Host.Outcome State Fault Refusal := replyBits s (addW 32 (intA s) (intB s))

/-- ADD.64 (R117). -/
def execAdd64 (s : State) : Host.Outcome State Fault Refusal := replyWide s (w64Add (wideA s) (wideB s))

end Sys2Proof.Machine
end

