-- ==== Sys2Proof/Machine/Codec.lean ====
section
/-! DEFINITION. The endian codec TOBE, TOLE, FROMBE, FROMLE (44_byte_codec.md; at W = 64, 45_wide64_composite.md R118 to
R121). -/

namespace Sys2Proof.Machine

/-! ## Abstract layer -/

/-- NB(W) = W / 8, the number of octets of a W-bit value (R90). -/
def nb (w : Nat) : Nat := w / 8

/-- to_be_bytes_W(x) (R91): octet i is floor(mask_W(x) / 2^(8 (NB-1-i))) mod 256. -/
def toBeW (w : Nat) (x : Int) : List Octet :=
  (List.range (nb w)).map fun i => BitVec.ofNat 8 ((maskW w x).toNat / 2 ^ (8 * (nb w - 1 - i)))

/-- to_le_bytes_W(x) (R92): octet i is floor(mask_W(x) / 2^(8 i)) mod 256. -/
def toLeW (w : Nat) (x : Int) : List Octet :=
  (List.range (nb w)).map fun i => BitVec.ofNat 8 ((maskW w x).toNat / 2 ^ (8 * i))

/-- The sum of c_i * 2^(8 (L-1-i)) over a sequence of L octets (R93). -/
def beSum : List Octet → Nat
  | []      => 0
  | c :: cs => c.toNat * 2 ^ (8 * cs.length) + beSum cs

/-- The sum of c_i * 2^(8 i) over a sequence of octets (R94). -/
def leSum : List Octet → Nat
  | []      => 0
  | c :: cs => c.toNat + 2 ^ 8 * leSum cs

/-- A parse at width W with the sum of its byte order: InsufficientData where MemRead is not defined, that is iff fewer than
NB(W) octets remain from the offset (R95, 20_memory.md R22). -/
def parseW (w : Nat) (sum : List Octet → Nat) (m : Memory) (off : Nat) : Except ErrorKind (BitVec w) :=
  match memRead m off (nb w) with
  | none    => .error .insufficientData
  | some cs => .ok (BitVec.ofNat w (sum cs))

/-- from_be_bytes_W(bytes, offset) (R93). -/
def fromBeW (w : Nat) (m : Memory) (off : Nat) : Except ErrorKind (BitVec w) := parseW w beSum m off

/-- from_le_bytes_W(bytes, offset) (R94). -/
def fromLeW (w : Nat) (m : Memory) (off : Nat) : Except ErrorKind (BitVec w) := parseW w leSum m off

/-! ## 64-bit composite layer -/

/-- w64_to_be_bytes (R118): the high half first. -/
def w64ToBe (x : Wide64) : List Octet := toBeW 32 x.high.toNat ++ toBeW 32 x.low.toNat

/-- w64_to_le_bytes (R119): the low half first. -/
def w64ToLe (x : Wide64) : List Octet := toLeW 32 x.low.toNat ++ toLeW 32 x.high.toNat

/-- A 64-bit parse: the check for eight octets comes first, then the two 32-bit parses, which then cannot fail (R120, R121,
90_conflicts.md C4). -/
def w64Parse (m : Memory) (off : Nat) (high low : Except ErrorKind (BitVec 32)) : Except ErrorKind Wide64 :=
  if (m.length : Int) - (off : Int) < 8 then .error .insufficientData
  else
    match high, low with
    | .ok h, .ok l => .ok ⟨h, l⟩
    | .error e, _  => .error e
    | _, .error e  => .error e

/-- w64_from_be_bytes (R120): the high half from the first four octets. -/
def w64FromBe (m : Memory) (off : Nat) : Except ErrorKind Wide64 := w64Parse m off (fromBeW 32 m off) (fromBeW 32 m (off + 4))

/-- w64_from_le_bytes (R121): the high half from the last four octets. -/
def w64FromLe (m : Memory) (off : Nat) : Except ErrorKind Wide64 := w64Parse m off (fromLeW 32 m (off + 4)) (fromLeW 32 m off)

/-! ## Commands -/

/-- TOBE.16 (R91). -/
def execTobe16 (s : State) : Host.Outcome State Fault Refusal := replyOctets s (toBeW 16 (intA s))

/-- TOBE.32 (R91). -/
def execTobe32 (s : State) : Host.Outcome State Fault Refusal := replyOctets s (toBeW 32 (intA s))

/-- TOBE.64 (R118). -/
def execTobe64 (s : State) : Host.Outcome State Fault Refusal := replyOctets s (w64ToBe (wideA s))

/-- TOLE.16 (R92). -/
def execTole16 (s : State) : Host.Outcome State Fault Refusal := replyOctets s (toLeW 16 (intA s))

/-- TOLE.32 (R92). -/
def execTole32 (s : State) : Host.Outcome State Fault Refusal := replyOctets s (toLeW 32 (intA s))

/-- TOLE.64 (R119). -/
def execTole64 (s : State) : Host.Outcome State Fault Refusal := replyOctets s (w64ToLe (wideA s))

/-- FROMBE.16 (R93). -/
def execFrombe16 (s : State) : Host.Outcome State Fault Refusal := replyTryBits s (fromBeW 16 (bytes s) (offset s))

/-- FROMBE.32 (R93). -/
def execFrombe32 (s : State) : Host.Outcome State Fault Refusal := replyTryBits s (fromBeW 32 (bytes s) (offset s))

/-- FROMBE.64 (R120). -/
def execFrombe64 (s : State) : Host.Outcome State Fault Refusal := replyTryWide s (w64FromBe (bytes s) (offset s))

/-- FROMLE.16 (R94). -/
def execFromle16 (s : State) : Host.Outcome State Fault Refusal := replyTryBits s (fromLeW 16 (bytes s) (offset s))

/-- FROMLE.32 (R94). -/
def execFromle32 (s : State) : Host.Outcome State Fault Refusal := replyTryBits s (fromLeW 32 (bytes s) (offset s))

/-- FROMLE.64 (R121). -/
def execFromle64 (s : State) : Host.Outcome State Fault Refusal := replyTryWide s (w64FromLe (bytes s) (offset s))

end Sys2Proof.Machine
end

