-- ==== Sys2Proof/Machine/Convert.lean ====
section
/-! DEFINITION. The 64-bit-only commands EQ, ISZERO, TONUM, TONUMS, FROMNUM (46_wide64_convert_compare.md). A number is an
unsigned integer on a 64-bit port; there is no floating-point value (R132). -/

namespace Sys2Proof.Machine

/-! ## Abstract layer -/

/-- w64_eq (R130): both halves equal. -/
def w64Eq (x y : Wide64) : Bool := decide (x.high = y.high) && decide (x.low = y.low)

/-- w64_is_zero (R131): both halves zero. -/
def w64IsZero (x : Wide64) : Bool := decide (x.high = 0#32) && decide (x.low = 0#32)

/-- high * 2^32 + low, exact (R133, R134). -/
def numberOf (x : Wide64) : BitVec 64 := BitVec.ofNat 64 (x.high.toNat * 2 ^ 32 + x.low.toNat)

/-- The value exceeds 2^53 - 1: the test is on the high half alone (R134, 90_conflicts.md C6). -/
def exceedsExact (x : Wide64) : Bool := decide (0x001FFFFF < x.high.toNat)

/-- w64_to_number (R133): exact up to 2^53 - 1, above it the unspecified number `u` the environment supplies. -/
def w64ToNumber (x : Wide64) (u : BitVec 64) : BitVec 64 := if exceedsExact x then u else numberOf x

/-- w64_to_number_strict (R134). -/
def w64ToNumberStrict (x : Wide64) : Except ErrorKind (BitVec 64) :=
  if exceedsExact x then .error .precisionExceeded else .ok (numberOf x)

/-- w64_from_number (R135), on its domain 0 .. 2^64 - 1 (93_implementation_defined.md U2). -/
def w64FromNumber (v : BitVec 64) : Wide64 := ⟨BitVec.ofNat 32 (v.toNat / 2 ^ 32), BitVec.ofNat 32 (v.toNat % 2 ^ 32)⟩

/-! ## Commands -/

/-- EQ.64 (R130). -/
def execEq64 (s : State) : Host.Outcome State Fault Refusal := replyBool s (w64Eq (wideA s) (wideB s))

/-- ISZERO.64 (R131). -/
def execIszero64 (s : State) : Host.Outcome State Fault Refusal := replyBool s (w64IsZero (wideA s))

/-- TONUM.64 (R133): it never fails; a transaction whose value is unspecified uses up one draw. -/
def execTonum64 (s : State) : Host.Outcome State Fault Refusal :=
  let v := w64ToNumber (wideA s) (s.nextDraw s.inp.a)
  if exceedsExact (wideA s) then replyBits s.drawn v else replyBits s v

/-- TONUMS.64 (R134). -/
def execTonums64 (s : State) : Host.Outcome State Fault Refusal := replyTryBits s (w64ToNumberStrict (wideA s))

/-- FROMNUM.64 (R135). -/
def execFromnum64 (s : State) : Host.Outcome State Fault Refusal := replyWide s (w64FromNumber s.inp.a)

end Sys2Proof.Machine
end

