-- ==== Sys2Proof/Machine/Bitwise.lean ====
section
/-! DEFINITION. The bitwise operators AND, OR, XOR, NOT (41_bitwise.md; at W = 64, 45_wide64_composite.md R107 to R110). The
truth tables are the usual ones (00_scope.md section 6.1, log entry 17). -/

namespace Sys2Proof.Machine

/-! ## Abstract layer -/

/-- and_W (R55): applied after masking both operands; the outer mask of a W-bit value is the value. -/
def andW (w : Nat) (a b : Int) : BitVec w := maskW w a &&& maskW w b

/-- or_W (R56). -/
def orW (w : Nat) (a b : Int) : BitVec w := maskW w a ||| maskW w b

/-- xor_W (R57). -/
def xorW (w : Nat) (a b : Int) : BitVec w := maskW w a ^^^ maskW w b

/-- not_W(a) = (2^W - 1) - mask_W(a) (R58). -/
def notW (w : Nat) (a : Int) : BitVec w := BitVec.ofNat w (2 ^ w - 1 - (maskW w a).toNat)

/-! ## 64-bit composite layer: the 32-bit operation on each half -/

/-- w64_and (R107). -/
def w64And (x y : Wide64) : Wide64 := ⟨andW 32 x.high.toNat y.high.toNat, andW 32 x.low.toNat y.low.toNat⟩

/-- w64_or (R108). -/
def w64Or (x y : Wide64) : Wide64 := ⟨orW 32 x.high.toNat y.high.toNat, orW 32 x.low.toNat y.low.toNat⟩

/-- w64_xor (R109). -/
def w64Xor (x y : Wide64) : Wide64 := ⟨xorW 32 x.high.toNat y.high.toNat, xorW 32 x.low.toNat y.low.toNat⟩

/-- w64_not (R110). -/
def w64Not (x : Wide64) : Wide64 := ⟨notW 32 x.high.toNat, notW 32 x.low.toNat⟩

/-! ## Commands -/

/-- AND.16 (R55). -/
def execAnd16 (s : State) : Host.Outcome State Fault Refusal := replyBits s (andW 16 (intA s) (intB s))

/-- AND.32 (R55). -/
def execAnd32 (s : State) : Host.Outcome State Fault Refusal := replyBits s (andW 32 (intA s) (intB s))

/-- AND.64 (R107). -/
def execAnd64 (s : State) : Host.Outcome State Fault Refusal := replyWide s (w64And (wideA s) (wideB s))

/-- OR.16 (R56). -/
def execOr16 (s : State) : Host.Outcome State Fault Refusal := replyBits s (orW 16 (intA s) (intB s))

/-- OR.32 (R56). -/
def execOr32 (s : State) : Host.Outcome State Fault Refusal := replyBits s (orW 32 (intA s) (intB s))

/-- OR.64 (R108). -/
def execOr64 (s : State) : Host.Outcome State Fault Refusal := replyWide s (w64Or (wideA s) (wideB s))

/-- XOR.16 (R57). -/
def execXor16 (s : State) : Host.Outcome State Fault Refusal := replyBits s (xorW 16 (intA s) (intB s))

/-- XOR.32 (R57). -/
def execXor32 (s : State) : Host.Outcome State Fault Refusal := replyBits s (xorW 32 (intA s) (intB s))

/-- XOR.64 (R109). -/
def execXor64 (s : State) : Host.Outcome State Fault Refusal := replyWide s (w64Xor (wideA s) (wideB s))

/-- NOT.16 (R58). -/
def execNot16 (s : State) : Host.Outcome State Fault Refusal := replyBits s (notW 16 (intA s))

/-- NOT.32 (R58). -/
def execNot32 (s : State) : Host.Outcome State Fault Refusal := replyBits s (notW 32 (intA s))

/-- NOT.64 (R110). -/
def execNot64 (s : State) : Host.Outcome State Fault Refusal := replyWide s (w64Not (wideA s))

end Sys2Proof.Machine
end

