-- ==== Sys2Proof/Machine/Shift.lean ====
section
/-! DEFINITION. The shifts LSHIFT, RSHIFT, ARSHIFT (42_shift_rotate.md R65, R67 to R71; at W = 64, 45_wide64_composite.md R111
to R113). A shift fails on n < 0, and that test comes first (R65); every n >= 0 is legal. -/

namespace Sys2Proof.Machine

/-! ## Abstract layer -/

/-- lshift_W for an amount n >= 0 (R69). -/
def lshiftBy (w : Nat) (a : Int) (n : Nat) : BitVec w :=
  if n = 0 then maskW w a
  else if w ≤ n then 0#w
  else maskW w (((maskW w a).toNat * 2 ^ n : Nat) : Int)

/-- rshift_W for an amount n >= 0 (R70). -/
def rshiftBy (w : Nat) (a : Int) (n : Nat) : BitVec w :=
  if n = 0 then maskW w a
  else if w ≤ n then 0#w
  else BitVec.ofNat w ((maskW w a).toNat / 2 ^ n)

/-- arshift_W for an amount n >= 0 (R71): the sign is bit W-1 of the masked operand. -/
def arshiftBy (w : Nat) (a : Int) (n : Nat) : BitVec w :=
  if (maskW w a).getLsbD (w - 1) then
    if n = 0 then maskW w a
    else if w ≤ n then BitVec.ofNat w (2 ^ w - 1)
    else BitVec.ofNat w ((maskW w a).toNat / 2 ^ n ||| (2 ^ n - 1) * 2 ^ (w - n))
  else rshiftBy w a n

/-- A shift by an integer amount: InvalidArgument on n < 0, whatever the operand is (R65). -/
def shiftChecked {α : Type} (n : Int) (f : Nat → α) : Except ErrorKind α :=
  if n < 0 then .error .invalidArgument else .ok (f n.toNat)

/-- lshift_W(a, n) (R69). -/
def lshiftW (w : Nat) (a n : Int) : Except ErrorKind (BitVec w) := shiftChecked n (lshiftBy w a)

/-- rshift_W(a, n) (R70). -/
def rshiftW (w : Nat) (a n : Int) : Except ErrorKind (BitVec w) := shiftChecked n (rshiftBy w a)

/-- arshift_W(a, n) (R71). -/
def arshiftW (w : Nat) (a n : Int) : Except ErrorKind (BitVec w) := shiftChecked n (arshiftBy w a)

/-! ## 64-bit composite layer. The 32-bit operations it needs are applied to canonical halves (R106). -/

/-- lshift_32 of a half. -/
def shl32 (x : BitVec 32) (n : Nat) : BitVec 32 := lshiftBy 32 x.toNat n

/-- rshift_32 of a half. -/
def shr32 (x : BitVec 32) (n : Nat) : BitVec 32 := rshiftBy 32 x.toNat n

/-- arshift_32 of a half. -/
def sar32 (x : BitVec 32) (n : Nat) : BitVec 32 := arshiftBy 32 x.toNat n

/-- or_32 of two halves. -/
def or32 (x y : BitVec 32) : BitVec 32 := orW 32 x.toNat y.toNat

/-- w64_lshift for an amount n >= 0 (R111). -/
def w64LshiftBy (x : Wide64) (n : Nat) : Wide64 :=
  if n = 0 then x
  else if 64 ≤ n then ⟨0#32, 0#32⟩
  else if 32 ≤ n then ⟨shl32 x.low (n - 32), 0#32⟩
  else ⟨or32 (shl32 x.high n) (shr32 x.low (32 - n)), shl32 x.low n⟩

/-- w64_rshift for an amount n >= 0 (R112). -/
def w64RshiftBy (x : Wide64) (n : Nat) : Wide64 :=
  if n = 0 then x
  else if 64 ≤ n then ⟨0#32, 0#32⟩
  else if 32 ≤ n then ⟨0#32, shr32 x.high (n - 32)⟩
  else ⟨shr32 x.high n, or32 (shr32 x.low n) (shl32 x.high (32 - n))⟩

/-- ALL1 when the 64-bit value is negative, else 0: its sign is bit 31 of the high half (R113). -/
def signFill (x : Wide64) : BitVec 32 := if x.high.getLsbD 31 then 0xFFFFFFFF#32 else 0#32

/-- w64_arshift for an amount n >= 0 (R113): the low half of the last case uses the logical shift of the low half. -/
def w64ArshiftBy (x : Wide64) (n : Nat) : Wide64 :=
  if n = 0 then x
  else if 64 ≤ n then ⟨signFill x, signFill x⟩
  else if 32 ≤ n then ⟨signFill x, sar32 x.high (n - 32)⟩
  else ⟨sar32 x.high n, or32 (shr32 x.low n) (shl32 x.high (32 - n))⟩

/-- w64_lshift (R111). -/
def w64Lshift (x : Wide64) (n : Int) : Except ErrorKind Wide64 := shiftChecked n (w64LshiftBy x)

/-- w64_rshift (R112). -/
def w64Rshift (x : Wide64) (n : Int) : Except ErrorKind Wide64 := shiftChecked n (w64RshiftBy x)

/-- w64_arshift (R113). -/
def w64Arshift (x : Wide64) (n : Int) : Except ErrorKind Wide64 := shiftChecked n (w64ArshiftBy x)

/-! ## Commands -/

/-- LSHIFT.16 (R69). -/
def execLshift16 (s : State) : Host.Outcome State Fault Refusal := replyTryBits s (lshiftW 16 (intA s) (amount s))

/-- LSHIFT.32 (R69). -/
def execLshift32 (s : State) : Host.Outcome State Fault Refusal := replyTryBits s (lshiftW 32 (intA s) (amount s))

/-- LSHIFT.64 (R111). -/
def execLshift64 (s : State) : Host.Outcome State Fault Refusal := replyTryWide s (w64Lshift (wideA s) (amount s))

/-- RSHIFT.16 (R70). -/
def execRshift16 (s : State) : Host.Outcome State Fault Refusal := replyTryBits s (rshiftW 16 (intA s) (amount s))

/-- RSHIFT.32 (R70). -/
def execRshift32 (s : State) : Host.Outcome State Fault Refusal := replyTryBits s (rshiftW 32 (intA s) (amount s))

/-- RSHIFT.64 (R112). -/
def execRshift64 (s : State) : Host.Outcome State Fault Refusal := replyTryWide s (w64Rshift (wideA s) (amount s))

/-- ARSHIFT.16 (R71). -/
def execArshift16 (s : State) : Host.Outcome State Fault Refusal := replyTryBits s (arshiftW 16 (intA s) (amount s))

/-- ARSHIFT.32 (R71). -/
def execArshift32 (s : State) : Host.Outcome State Fault Refusal := replyTryBits s (arshiftW 32 (intA s) (amount s))

/-- ARSHIFT.64 (R113). -/
def execArshift64 (s : State) : Host.Outcome State Fault Refusal := replyTryWide s (w64Arshift (wideA s) (amount s))

end Sys2Proof.Machine
end

