-- ==== Sys2Proof/Machine/Rotate.lean ====
section
/-! DEFINITION. The rotates ROL, ROR (42_shift_rotate.md R66, R72, R73; at W = 64, 45_wide64_composite.md R114, R115). The
amount is any integer, reduced modulo W first; a rotate never fails (R66, 90_conflicts.md C1). -/

namespace Sys2Proof.Machine

/-! ## Abstract layer -/

/-- r = n mod W, the non-negative residue in 0 .. W-1 (R66). -/
def rotateAmount (w : Nat) (n : Int) : Nat := (n % (w : Int)).toNat

/-- rol_W(x, n) (R72). -/
def rolW (w : Nat) (x n : Int) : BitVec w :=
  let r := rotateAmount w n
  if r = 0 then maskW w x else lshiftBy w x r ||| rshiftBy w x (w - r)

/-- ror_W(x, n) (R73). -/
def rorW (w : Nat) (x n : Int) : BitVec w :=
  let r := rotateAmount w n
  if r = 0 then maskW w x else rshiftBy w x r ||| lshiftBy w x (w - r)

/-! ## 64-bit composite layer -/

/-- rotl_lt32(h, l, k), for 0 < k < 32 (R114): the spec's recovery of a formula the source does not write out. Log entry
16. -/
def rotlLt32 (h l : BitVec 32) (k : Nat) : Wide64 :=
  ⟨or32 (shl32 h k) (shr32 l (32 - k)), or32 (shl32 l k) (shr32 h (32 - k))⟩

/-- rotr_lt32(h, l, k), for 0 < k < 32 (R115). Log entry 16. -/
def rotrLt32 (h l : BitVec 32) (k : Nat) : Wide64 :=
  ⟨or32 (shr32 h k) (shl32 l (32 - k)), or32 (shr32 l k) (shl32 h (32 - k))⟩

/-- w64_rol (R114): identity, swap of the halves, or the formula on the pair or on the swapped pair. -/
def w64Rol (x : Wide64) (n : Int) : Wide64 :=
  let r := rotateAmount 64 n
  if r = 0 then x
  else if r = 32 then ⟨x.low, x.high⟩
  else if r < 32 then rotlLt32 x.high x.low r
  else rotlLt32 x.low x.high (r - 32)

/-- w64_ror (R115). -/
def w64Ror (x : Wide64) (n : Int) : Wide64 :=
  let r := rotateAmount 64 n
  if r = 0 then x
  else if r = 32 then ⟨x.low, x.high⟩
  else if r < 32 then rotrLt32 x.high x.low r
  else rotrLt32 x.low x.high (r - 32)

/-! ## Commands -/

/-- ROL.16 (R72). -/
def execRol16 (s : State) : Host.Outcome State Fault Refusal := replyBits s (rolW 16 (intA s) (amount s))

/-- ROL.32 (R72). -/
def execRol32 (s : State) : Host.Outcome State Fault Refusal := replyBits s (rolW 32 (intA s) (amount s))

/-- ROL.64 (R114). -/
def execRol64 (s : State) : Host.Outcome State Fault Refusal := replyWide s (w64Rol (wideA s) (amount s))

/-- ROR.16 (R73). -/
def execRor16 (s : State) : Host.Outcome State Fault Refusal := replyBits s (rorW 16 (intA s) (amount s))

/-- ROR.32 (R73). -/
def execRor32 (s : State) : Host.Outcome State Fault Refusal := replyBits s (rorW 32 (intA s) (amount s))

/-- ROR.64 (R115). -/
def execRor64 (s : State) : Host.Outcome State Fault Refusal := replyWide s (w64Ror (wideA s) (amount s))

end Sys2Proof.Machine
end

