-- ==== Sys2Proof/Machine/Dispatch.lean ====
section
/-! DEFINITION. One arm per command: the transaction on the ports is answered as its command's meaning says (30_encoding.md
R30, R41). -/

namespace Sys2Proof.Machine

/-- exec (R30), for a legal command. -/
def exec (i : Instr) (s : State) : Host.Outcome State Fault Refusal :=
  match i with
  | .mask16 => Sys2Proof.Machine.execMask16 s
  | .and16 => Sys2Proof.Machine.execAnd16 s
  | .or16 => Sys2Proof.Machine.execOr16 s
  | .xor16 => Sys2Proof.Machine.execXor16 s
  | .not16 => Sys2Proof.Machine.execNot16 s
  | .lshift16 => Sys2Proof.Machine.execLshift16 s
  | .rshift16 => Sys2Proof.Machine.execRshift16 s
  | .arshift16 => Sys2Proof.Machine.execArshift16 s
  | .rol16 => Sys2Proof.Machine.execRol16 s
  | .ror16 => Sys2Proof.Machine.execRor16 s
  | .add16 => Sys2Proof.Machine.execAdd16 s
  | .tobe16 => Sys2Proof.Machine.execTobe16 s
  | .tole16 => Sys2Proof.Machine.execTole16 s
  | .frombe16 => Sys2Proof.Machine.execFrombe16 s
  | .fromle16 => Sys2Proof.Machine.execFromle16 s
  | .mask32 => Sys2Proof.Machine.execMask32 s
  | .and32 => Sys2Proof.Machine.execAnd32 s
  | .or32 => Sys2Proof.Machine.execOr32 s
  | .xor32 => Sys2Proof.Machine.execXor32 s
  | .not32 => Sys2Proof.Machine.execNot32 s
  | .lshift32 => Sys2Proof.Machine.execLshift32 s
  | .rshift32 => Sys2Proof.Machine.execRshift32 s
  | .arshift32 => Sys2Proof.Machine.execArshift32 s
  | .rol32 => Sys2Proof.Machine.execRol32 s
  | .ror32 => Sys2Proof.Machine.execRor32 s
  | .add32 => Sys2Proof.Machine.execAdd32 s
  | .tobe32 => Sys2Proof.Machine.execTobe32 s
  | .tole32 => Sys2Proof.Machine.execTole32 s
  | .frombe32 => Sys2Proof.Machine.execFrombe32 s
  | .fromle32 => Sys2Proof.Machine.execFromle32 s
  | .mask64 => Sys2Proof.Machine.execMask64 s
  | .and64 => Sys2Proof.Machine.execAnd64 s
  | .or64 => Sys2Proof.Machine.execOr64 s
  | .xor64 => Sys2Proof.Machine.execXor64 s
  | .not64 => Sys2Proof.Machine.execNot64 s
  | .lshift64 => Sys2Proof.Machine.execLshift64 s
  | .rshift64 => Sys2Proof.Machine.execRshift64 s
  | .arshift64 => Sys2Proof.Machine.execArshift64 s
  | .rol64 => Sys2Proof.Machine.execRol64 s
  | .ror64 => Sys2Proof.Machine.execRor64 s
  | .add64 => Sys2Proof.Machine.execAdd64 s
  | .tobe64 => Sys2Proof.Machine.execTobe64 s
  | .tole64 => Sys2Proof.Machine.execTole64 s
  | .frombe64 => Sys2Proof.Machine.execFrombe64 s
  | .fromle64 => Sys2Proof.Machine.execFromle64 s
  | .eq64 => Sys2Proof.Machine.execEq64 s
  | .iszero64 => Sys2Proof.Machine.execIszero64 s
  | .tonum64 => Sys2Proof.Machine.execTonum64 s
  | .tonums64 => Sys2Proof.Machine.execTonums64 s
  | .fromnum64 => Sys2Proof.Machine.execFromnum64 s

end Sys2Proof.Machine
end

