-- ==== Sys2Proof/Machine/Step.lean ====
section
/-! DEFINITION. The unit's only kind of step is the transaction (30_encoding.md R30): the host presents its next one, the
command byte is decoded (R47), and the unit answers. -/

namespace Sys2Proof.Machine

/-- One step: the next transaction of the host's script is presented and answered. An illegal command byte is decided first,
from CMD alone (60_exceptions.md R153). With no transaction pending nothing happens: DESIGN CHOICE, log entry 2. -/
def step (s : State) : Host.Outcome State Fault Refusal :=
  match s.pending with
  | [] => .next s
  | t :: rest =>
    match decode t.cmd with
    | .ok i    => exec i (s.accept t rest)
    | .error _ => illegalCommand (s.accept t rest)

/-- `s` with the command byte `w` placed where the next step takes its command from: the CMD port of the next transaction.
Every command is one byte (R43). Log entry 15. -/
def State.withFetchWord (s : State) (_nbits w : Nat) : State := s.withNextCommand (BitVec.ofNat 8 w)

end Sys2Proof.Machine
end

