-- ==== Sys2Proof/Machine/Generic.lean ====
section
/-! DEFINITION. The generic definition of each command that has one, at any width W (40_masking.md to 44_byte_codec.md). At W
= 64 it is the second of the two normative definitions of 45_wide64_composite.md R122 (92_eei_decisions.md D28): exec runs the
composite one there, and the two are to agree. -/

namespace Sys2Proof.Machine

/-- The outcome of an operation at width W by its generic rule, for the arguments on the ports (R44); none for the five
operations that have only the definition on pairs of halves (46_wide64_convert_compare.md). -/
def genericOutcome (w : Nat) (s : State) : Op → Option (Except ErrorKind Value)
  | .mask    => some (.ok (bitsValue (maskW w (intA s))))
  | .and     => some (.ok (bitsValue (andW w (intA s) (intB s))))
  | .or      => some (.ok (bitsValue (orW w (intA s) (intB s))))
  | .xor     => some (.ok (bitsValue (xorW w (intA s) (intB s))))
  | .not     => some (.ok (bitsValue (notW w (intA s))))
  | .lshift  => some ((lshiftW w (intA s) (amount s)).map bitsValue)
  | .rshift  => some ((rshiftW w (intA s) (amount s)).map bitsValue)
  | .arshift => some ((arshiftW w (intA s) (amount s)).map bitsValue)
  | .rol     => some (.ok (bitsValue (rolW w (intA s) (amount s))))
  | .ror     => some (.ok (bitsValue (rorW w (intA s) (amount s))))
  | .add     => some (.ok (bitsValue (addW w (intA s) (intB s))))
  | .tobe    => some (.ok (.octets (toBeW w (intA s))))
  | .tole    => some (.ok (.octets (toLeW w (intA s))))
  | .frombe  => some ((fromBeW w (bytes s) (offset s)).map bitsValue)
  | .fromle  => some ((fromLeW w (bytes s) (offset s)).map bitsValue)
  | .eq      => none
  | .iszero  => none
  | .tonum   => none
  | .tonums  => none
  | .fromnum => none

end Sys2Proof.Machine
end

