-- ==== Sys2Proof/Machine/Script.lean ====
section
/-! DEFINITION. The host's side of a run: a line of a host script, the operands it names, the transaction it presents, and
what it binds (30_encoding.md R45; 70_reset_and_hazards.md R171). The host holds every named value, the unit none. A line that
R45 calls ill-formed has no meaning: it is an error here, by name. Log entry 14. -/

namespace Sys2Proof.Machine

/-- An operand of a line: an integer, a pair, a byte list or a name (R45). -/
inductive Arg where
  | int (v : Int)
  | pair (high low : Int)
  | bytes (bs : List Int)
  | name (x : String)
deriving DecidableEq, Repr

/-- A line of a host script: an optional name, a mnemonic at a width, operands, and the expected status (R45). -/
structure Line where
  bind    : Option String
  command : Command
  args    : List Arg
  expect  : Status
deriving DecidableEq, Repr

/-- What a name stands for: an R value, an RB sequence, or nothing because its transaction's STATUS was not OK. -/
inductive Bound where
  | num (v : BitVec 64)
  | octets (bs : List Octet)
  | unusable
deriving DecidableEq, Repr

/-- The host's named values, the newest first. -/
abbrev Names := List (String × Bound)

/-- Why a line has no meaning. -/
inductive LineError where
  /-- A name no earlier line has bound, or one whose transaction's STATUS was not OK. -/
  | noValue
  /-- An operand of a kind the port does not take. -/
  | wrongKind
  /-- An integer the port cannot carry (93_implementation_defined.md U2, U4, U9, U10). -/
  | notPresentable
  /-- Not the number of operands the format has. -/
  | wrongOperands
  /-- The unit gave no answer; it always gives one. -/
  | noAnswer
deriving DecidableEq, Repr

/-- The value of a name. -/
def lookupName (env : Names) (x : String) : Except LineError Bound :=
  match env.lookup x with
  | none           => .error .noValue
  | some .unusable => .error .noValue
  | some b         => .ok b

/-- An integer operand for N or OFF. -/
def intArg (env : Names) : Arg → Except LineError Int
  | .int v => .ok v
  | .name x =>
    match lookupName env x with
    | .ok (.num v) => .ok (v.toNat : Int)
    | .ok _        => .error .wrongKind
    | .error e     => .error e
  | .pair _ _ => .error .wrongKind
  | .bytes _  => .error .wrongKind

/-- An integer in a range, as the bits of a port. -/
def presentBits (w : Nat) (lo hi v : Int) : Except LineError (BitVec w) :=
  if lo ≤ v ∧ v < hi then .ok (BitVec.ofInt w v) else .error .notPresentable

/-- An operand for A or B: an integer in -2^63 .. 2^64 - 1 (R32), or a pair, presented as h * 2^32 + l (R45). -/
def wordArg (env : Names) (x : Arg) : Except LineError (BitVec 64) :=
  match x with
  | .pair h l =>
    if 0 ≤ h ∧ h < 2 ^ 32 ∧ 0 ≤ l ∧ l < 2 ^ 32 then .ok (BitVec.ofInt 64 (h * 2 ^ 32 + l)) else .error .notPresentable
  | _ =>
    match intArg env x with
    | .ok v    => presentBits 64 (-2 ^ 63) (2 ^ 64) v
    | .error e => .error e

/-- An operand for N: an integer in -2^31 .. 2^31 - 1 (R34). -/
def amountArg (env : Names) (x : Arg) : Except LineError (BitVec 32) :=
  match intArg env x with
  | .ok v    => presentBits 32 (-2 ^ 31) (2 ^ 31) v
  | .error e => .error e

/-- An operand for OFF: a natural number below 2^32 (R35). -/
def offsetArg (env : Names) (x : Arg) : Except LineError (BitVec 32) :=
  match intArg env x with
  | .ok v    => presentBits 32 0 (2 ^ 32) v
  | .error e => .error e

/-- An operand for BUF: a byte list, each element in 0 .. 255, or a name bound to a byte sequence (R45). -/
def bytesArg (env : Names) : Arg → Except LineError Memory
  | .bytes bs => if bs.all (fun v => decide (0 ≤ v ∧ v < 256)) then .ok (bs.map (BitVec.ofInt 8)) else .error .notPresentable
  | .name x =>
    match lookupName env x with
    | .ok (.octets bs) => .ok bs
    | .ok _            => .error .wrongKind
    | .error e         => .error e
  | .int _    => .error .wrongKind
  | .pair _ _ => .error .wrongKind

/-- The command byte of a mnemonic at a width, WSEL * 32 + OP, legal or not (R47). -/
def commandByte (c : Command) : BitVec 8 := BitVec.ofNat 8 (c.width.wsel * 32 + c.op.code)

/-- The transaction a line presents; a port its format does not read is left at zero, which changes nothing (R38, R44). An
omitted offset is 0 (R45). -/
def lineTransaction (env : Names) (l : Line) : Except LineError Transaction := do
  let t := { Transaction.zero with cmd := commandByte l.command }
  match l.command.op.format, l.args with
  | .u, [x] | .ser, [x] =>
    let a ← wordArg env x
    return { t with a := a }
  | .bin, [x, y] =>
    let a ← wordArg env x
    let b ← wordArg env y
    return { t with a := a, b := b }
  | .sh, [x, n] =>
    let a ← wordArg env x
    let k ← amountArg env n
    return { t with a := a, n := k }
  | .par, [m] =>
    let bs ← bytesArg env m
    return { t with buf := bs }
  | .par, [m, o] =>
    let bs ← bytesArg env m
    let off ← offsetArg env o
    return { t with buf := bs, off := off }
  | _, _ => throw .wrongOperands

/-- What the name of a line stands for after its answer: R, or RB for TOBE and TOLE, only if STATUS = OK (R45). -/
def boundOf (c : Command) (x : Response) : Bound :=
  if x.status = .ok then
    match c.op.format with
    | .ser => .octets x.rb
    | _    => .num x.r
  else .unusable

/-- The host between two lines: its named values, the machine, and whether every line so far ended with the status it
expected. -/
structure HostRun where
  names : Names
  unit  : State
  met   : Bool
deriving DecidableEq, Repr

/-- One line: its transaction is presented and answered, and its name bound (R45). -/
def runLine (h : HostRun) (l : Line) : Except LineError HostRun := do
  let t ← lineTransaction h.names l
  match step { h.unit with pending := [t] } with
  | .next s =>
    match s.answers.getLast? with
    | some x =>
      let names := match l.bind with
        | some nm => (nm, boundOf l.command x) :: h.names
        | none    => h.names
      return { names := names, unit := s, met := h.met && decide (x.status = l.expect) }
    | none => throw .noAnswer
  | .fault _   => throw .noAnswer
  | .refused _ => throw .noAnswer

/-- A host script: its lines in order, each as one transaction; no labels, branches or loops (R45). -/
def runScript (h : HostRun) : List Line → Except LineError HostRun
  | []      => .ok h
  | l :: ls =>
    match runLine h l with
    | .ok h'   => runScript h' ls
    | .error e => .error e

end Sys2Proof.Machine
end

