-- ==== Sys2Proof/Safety.lean ====
section
/-! DEFINITION. The terms the statements use: what a well-formed answer is, which transactions have a determined answer, the
answer of a transaction taken alone, and when two transactions agree on some ports. -/

namespace Sys2Proof.Machine

/-- What every answer looks like (30_encoding.md R36, R37; 60_exceptions.md R146): a failed transaction drives R = 0 and
RB_LEN = 0; RB_LEN is 0, 2, 4 or 8; an answer with octets has R = 0. -/
def Response.legal (x : Response) : Prop :=
  (x.status ≠ .ok → x.r = 0#64 ∧ x.rb = []) ∧ x.rb.length ∈ [0, 2, 4, 8] ∧ (x.rb ≠ [] → x.r = 0#64)

/-- Every answer given so far is legal. -/
def State.answersLegal (s : State) : Prop := ∀ x ∈ s.answers, Response.legal x

/-- A transaction the ports can carry: LEN is at most BUF_MAX (00_scope.md R4). Nothing depends on it. -/
def Transaction.presentable (t : Transaction) : Prop := t.len ≤ Config.bufMax

/-- A reserved command byte, read from R42 (a) to (d) on the bits of the byte, without the decoder: Z = 1; WSEL = 11; OP =
0x0F or 0x15 to 0x1F; OP in 0x10 to 0x14 with WSEL not 10. -/
abbrev reservedByte (c : BitVec 8) : Prop :=
  c.getLsbD 7 = true ∨ c.extractLsb' 5 2 = 3#2 ∨ (c.extractLsb' 0 5).toNat = 0x0F ∨ 0x15 ≤ (c.extractLsb' 0 5).toNat ∨
    (0x10 ≤ (c.extractLsb' 0 5).toNat ∧ c.extractLsb' 5 2 ≠ 2#2)

/-- The spec fixes the whole answer: the transaction is not a TONUM above 2^53 - 1 (46_wide64_convert_compare.md R133, the
unit's only nondeterminism, 93_implementation_defined.md U1). -/
def Transaction.determined (t : Transaction) : Bool := !(decide (t.cmd = 0x52#8) && decide (t.a.extractLsb' 53 11 ≠ 0#11))

/-- The answer of one transaction presented alone to a machine just reset, with `k` draws behind it. -/
def answerAlone (k : Nat) (t : Transaction) : Option Response :=
  match step { State.reset with pending := [t], draws := k } with
  | .next s    => s.answers.getLast?
  | .fault _   => none
  | .refused _ => none

/-- Two transactions carry the same value on a port. -/
def samePort (p : InPort) (t u : Transaction) : Prop :=
  match p with
  | .a   => t.a = u.a
  | .b   => t.b = u.b
  | .n   => t.n = u.n
  | .off => t.off = u.off
  | .buf => t.buf = u.buf

/-- Two transactions agree on every port of a list. -/
def agreeOn (ps : List InPort) (t u : Transaction) : Prop := ∀ p ∈ ps, samePort p t u

end Sys2Proof.Machine
end

