-- ==== Sys2Proof/Certificates/Slice0/Obligations.lean ====
section
/-! DEFINITION. The statements for the provers. Each docstring says what is stated and which rule of spec/ it formalises. -/

open Sys2Proof Sys2Proof.Machine

/-- The bytes 0 00 00000, 0 01 00001, 0 10 00101, 0 00 01001, 0 10 01010, 0 01 01011, 0 00 01110 and 0 10 10011 (Z, WSEL,
OP) decode to MASK.16, AND.32, LSHIFT.64, ROR.16, ADD.64, TOBE.32, FROMLE.16 and TONUMS.64. (Derived: 30_encoding.md
section 3 (R39, R40, R41).) -/
def Obligations.WrittenWordsDecode : Prop :=
  decode 0b00000000#8 = .ok .mask16 ∧ decode 0b00100001#8 = .ok .and32 ∧ decode 0b01000101#8 = .ok .lshift64 ∧
  decode 0b00001001#8 = .ok .ror16 ∧ decode 0b01001010#8 = .ok .add64 ∧ decode 0b00101011#8 = .ok .tobe32 ∧
  decode 0b00001110#8 = .ok .fromle16 ∧ decode 0b01010011#8 = .ok .tonums64

/-- For every command i, decode(encode(i)) is i; a byte that decodes to i is encode(i); encode(i) is wsel(W)*32 + op; encode
is injective; every other byte is illegal. (Stated: R47.) -/
def Obligations.DecodeEncodeAgree : Prop :=
  (∀ i : Instr, decode (encode i) = .ok i) ∧
  (∀ (c : BitVec 8) (i : Instr), decode c = .ok i → c = encode i) ∧
  (∀ i : Instr, (encode i).toNat = i.width.wsel * 32 + i.op.code) ∧
  (∀ i j : Instr, encode i = encode j → i = j) ∧
  (∀ c : BitVec 8, (∀ i : Instr, c ≠ encode i) → ∃ e, decode c = .error e)

/-- Let a transaction be the next one pending. If its command byte has Z = 1, or WSEL = 11, or OP = 0x0F or 0x15 to 0x1F, or
OP 0x10 to 0x14 with WSEL not 10, the step answers STATUS = IllegalCommand, R = 0, RB empty, whatever the other inputs
are, and changes nothing else. Otherwise the step answers with another STATUS. (Stated: R42, R150.) -/
def Obligations.IllegalBytesAnswerIllegalCommand : Prop :=
  ∀ (s : State) (t : Transaction) (rest : List Transaction), s.pending = t :: rest →
    (reservedByte t.cmd → step s = .next ((s.accept t rest).answered ⟨.illegalCommand, 0#64, []⟩)) ∧
    (¬ reservedByte t.cmd →
      ∃ (u : State) (x : Response), step s = .next u ∧ u.answers = s.answers ++ [x] ∧ x.status ≠ .illegalCommand)

/-- If the first pending transaction t has a command byte that decodes to i, the step is exec of i at the state whose ports
carry t, whose pending list is the rest, and whose answers and draws are as before. (Derived: 30_encoding.md section 1
(R30).) -/
def Obligations.StepRunsDecodedCommand : Prop :=
  ∀ (s : State) (t : Transaction) (rest : List Transaction) (i : Instr), s.pending = t :: rest → decode t.cmd = .ok i →
    step s = exec i { inp := t, pending := rest, answers := s.answers, draws := s.draws }

/-- If no transaction is pending, the step answers the same state. The spec has no step without a transaction; that the
model idles is its own choice (log entry 2). (Derived: 70_reset_and_hazards.md section 5 (R171),
notes/assumptions/2.md.) -/
def Obligations.StepIdlesWithNothingPending : Prop :=
  ∀ s : State, s.pending = [] → step s = .next s

/-- For every state and every k up to the number of pending transactions, k steps end in a next state in which the first k
transactions are gone from the pending list, and the answers are the earlier ones followed by exactly k more. (Derived:
30_encoding.md section 1 (R30), 70_reset_and_hazards.md section 5 (R171).) -/
def Obligations.RunGivesOneAnswerPerTransaction : Prop :=
  ∀ (s : State) (k : Nat), k ≤ s.pending.length →
    ∃ (u : State) (xs : List Response), Host.Core.run Sys2Proof.core k s = .next u ∧ u.pending = s.pending.drop k ∧
      u.answers = s.answers ++ xs ∧ xs.length = k

/-- From any state, running all pending transactions ends with nothing pending and the answers extended by one for each. The
answer of each determined transaction (any but a TONUM above 2^53 - 1) is the one it gets when presented alone to a
machine just reset, whatever else the run holds, so any order gives it the same answer. A TONUM above 2^53 - 1 is
answered OK with some R and no octets. The draw counter, the model's own (log entry 5), goes up by the number of the
latter. (Derived: 10_state.md section 2 (R16, R18), 20_memory.md section 5 (R27), 70_reset_and_hazards.md section 3
(R167), 46_wide64_convert_compare.md section 2 (R133), notes/assumptions/5.md.) -/
def Obligations.AnswersOfARunAreStateless : Prop :=
  ∀ s : State, ∃ (u : State) (xs : List Response),
    Host.Core.run Sys2Proof.core s.pending.length s = .next u ∧ u.pending = [] ∧ u.answers = s.answers ++ xs ∧
      xs.length = s.pending.length ∧ u.draws = s.draws + s.pending.countP (fun t => !t.determined) ∧
      ∀ (k : Nat) (t : Transaction), s.pending[k]? = some t →
        (t.determined = true → xs[k]? = answerAlone 0 t) ∧
        (t.determined = false → ∃ v : BitVec 64, xs[k]? = some ⟨.ok, v, []⟩)

/-- If every answer so far is legal (STATUS other than OK gives R = 0 and no octets; RB_LEN is 0, 2, 4 or 8; octets on RB
come with R = 0) and the step answers a next state, every answer there is legal. (Derived: 30_encoding.md section 2
(R36, R37), 60_exceptions.md section 1 (R146).) -/
def Obligations.StepKeepsAnswersLegal : Prop :=
  ∀ s u : State, s.answersLegal → step s = .next u → u.answersLegal

/-- In the reset state the pending list and the answers are empty, and the invariant that all answers are legal holds. That
State has these two lists and that they are empty at reset is the model's choice (log entries 1 and 3); the spec gives
the unit no such lists. (Derived: notes/assumptions/1.md, notes/assumptions/3.md, 60_exceptions.md section 1 (R146),
30_encoding.md section 2 (R36, R37).) -/
def Obligations.ResetHoldsNothing : Prop :=
  State.reset.pending = [] ∧ State.reset.answers = [] ∧ State.reset.answersLegal

/-- For every command and every state exec answers a next state that differs from the given one in one added answer and, for
TONUM.64 with A[63:53] not 0, in the draw counter, which is one more (the counter is the model's own, log entry 5). The
ports, BUF included, and the pending list are unchanged. (Derived: 10_state.md section 2 (R12, R14, R16), 20_memory.md
section 1 (R23), 60_exceptions.md section 1 (R146), notes/assumptions/5.md.) -/
def Obligations.FrameOfEveryCommand : Prop :=
  ∀ (i : Instr) (s : State), ∃ x : Response,
    exec i s = .next
      { inp := s.inp, pending := s.pending, answers := s.answers ++ [x],
        draws := if i = .tonum64 ∧ s.inp.a.extractLsb' 53 11 ≠ 0#11 then s.draws + 1 else s.draws }

/-- Every command answers. Its STATUS is InvalidArgument iff it is a shift and n < 0; InsufficientData iff it is a parse and
LEN - OFF < NB(W); PrecisionExceeded iff it is TONUMS.64 and the high half of A exceeds 0x001FFFFF; it is never
IllegalCommand; in every other case it is OK. (Stated: R147, R148, R149, R152.) -/
def Obligations.StatusOfEveryCommand : Prop :=
  ∀ (i : Instr) (s : State), ∃ (u : State) (x : Response), exec i s = .next u ∧ u.answers = s.answers ++ [x] ∧
    (x.status = .invalidArgument ↔ (i.op = .lshift ∨ i.op = .rshift ∨ i.op = .arshift) ∧ s.inp.n.toInt < 0) ∧
    (x.status = .insufficientData ↔
      (i.op = .frombe ∨ i.op = .fromle) ∧ (s.inp.buf.length : Int) - (s.inp.off.toNat : Int) < (i.width.bits / 8 : Nat)) ∧
    (x.status = .precisionExceeded ↔ i = .tonums64 ∧ 0x001FFFFF < (s.inp.a.extractLsb' 32 32).toNat) ∧
    x.status ≠ .illegalCommand

/-- If two states agree on the input ports the format of command i lists, and on the draw counter, then exec of i adds the
same answer to both. For TONUM above 2^53 - 1 this is the model's choice and not the spec's (log entry 5): equal
counters and operands draw equal values there, which R133 does not give. (Derived: 30_encoding.md sections 2 and 5 (R38,
R44), notes/assumptions/5.md.) -/
def Obligations.CommandsIgnoreUnreadPorts : Prop :=
  ∀ (i : Instr) (s u : State), agreeOn i.reads s.inp u.inp → s.draws = u.draws →
    ∃ (x : Response) (d : Nat),
      exec i s = .next { s with answers := s.answers ++ [x], draws := d } ∧
      exec i u = .next { u with answers := u.answers ++ [x], draws := d }

/-- If two states agree on the input ports command i reads, and i is not TONUM.64 with A[63:53] not 0, then exec of i adds
the same answer to both and changes nothing else, whatever their histories and draw counters are. (Derived: 10_state.md
section 2 (R16), 46_wide64_convert_compare.md section 2 (R133).) -/
def Obligations.AnswersDependOnPortsAlone : Prop :=
  ∀ (i : Instr) (s u : State), agreeOn i.reads s.inp u.inp → (i = .tonum64 → s.inp.a.extractLsb' 53 11 = 0#11) →
    ∃ x : Response, exec i s = .next (s.answered x) ∧ exec i u = .next (u.answered x)

/-- The bytes of MASK are 0x00, 0x20, 0x40. For every integer n, mask_W(n) is the residue r with 0 <= r < 2^W and r = n mod
2^W. In every state MASK.16 and MASK.32 answer OK with R the low 16 and 32 bits of A, MASK.64 with R = A; nothing else
changes. (Stated: R50, R51.) -/
def Obligations.MaskCommandsKeepTheLowBits : Prop :=
  encode .mask16 = 0x00#8 ∧ encode .mask32 = 0x20#8 ∧ encode .mask64 = 0x40#8 ∧
  (∀ (w : Nat) (n : Int), ((maskW w n).toNat : Int) = n % 2 ^ w ∧ 0 ≤ n % (2 : Int) ^ w ∧ n % (2 : Int) ^ w < 2 ^ w) ∧
  ∀ s : State,
    exec .mask16 s = .next (s.answered (.int ((s.inp.a.extractLsb' 0 16).setWidth 64))) ∧
    exec .mask32 s = .next (s.answered (.int ((s.inp.a.extractLsb' 0 32).setWidth 64))) ∧
    exec .mask64 s = .next (s.answered (.int s.inp.a))

/-- The bytes of AND are 0x01, 0x21, 0x41. Bit i of and_W(a, b) is the and of bit i of mask_W(a) and of mask_W(b). In every
state AND.W answers OK with R the bitwise and of A[W-1:0] and B[W-1:0], zero-extended; nothing else changes. (Stated:
R55.) -/
def Obligations.AndCommandsCombineBitByBit : Prop :=
  encode .and16 = 0x01#8 ∧ encode .and32 = 0x21#8 ∧ encode .and64 = 0x41#8 ∧
  (∀ (w : Nat) (a b : Int) (i : Nat), (andW w a b).getLsbD i = ((maskW w a).getLsbD i && (maskW w b).getLsbD i)) ∧
  ∀ s : State,
    exec .and16 s = .next (s.answered (.int ((s.inp.a.extractLsb' 0 16 &&& s.inp.b.extractLsb' 0 16).setWidth 64))) ∧
    exec .and32 s = .next (s.answered (.int ((s.inp.a.extractLsb' 0 32 &&& s.inp.b.extractLsb' 0 32).setWidth 64))) ∧
    exec .and64 s = .next (s.answered (.int (s.inp.a &&& s.inp.b)))

/-- The bytes of OR are 0x02, 0x22, 0x42. Bit i of or_W(a, b) is the or of bit i of mask_W(a) and of mask_W(b). In every
state OR.W answers OK with R the bitwise or of A[W-1:0] and B[W-1:0], zero-extended; nothing else changes. (Stated:
R56.) -/
def Obligations.OrCommandsCombineBitByBit : Prop :=
  encode .or16 = 0x02#8 ∧ encode .or32 = 0x22#8 ∧ encode .or64 = 0x42#8 ∧
  (∀ (w : Nat) (a b : Int) (i : Nat), (orW w a b).getLsbD i = ((maskW w a).getLsbD i || (maskW w b).getLsbD i)) ∧
  ∀ s : State,
    exec .or16 s = .next (s.answered (.int ((s.inp.a.extractLsb' 0 16 ||| s.inp.b.extractLsb' 0 16).setWidth 64))) ∧
    exec .or32 s = .next (s.answered (.int ((s.inp.a.extractLsb' 0 32 ||| s.inp.b.extractLsb' 0 32).setWidth 64))) ∧
    exec .or64 s = .next (s.answered (.int (s.inp.a ||| s.inp.b)))

/-- The bytes of XOR are 0x03, 0x23, 0x43. Bit i of xor_W(a, b) is the exclusive or of bit i of mask_W(a) and of mask_W(b);
xor(a, a) is 0 and xor(a, 0) is mask_W(a). In every state XOR.W answers OK with R the bitwise exclusive or of A[W-1:0]
and B[W-1:0], zero-extended; nothing else changes. (Stated: R57.) -/
def Obligations.XorCommandsCombineBitByBit : Prop :=
  encode .xor16 = 0x03#8 ∧ encode .xor32 = 0x23#8 ∧ encode .xor64 = 0x43#8 ∧
  (∀ (w : Nat) (a b : Int) (i : Nat), (xorW w a b).getLsbD i = ((maskW w a).getLsbD i ^^ (maskW w b).getLsbD i)) ∧
  (∀ (w : Nat) (a : Int), xorW w a a = 0#w ∧ xorW w a 0 = maskW w a) ∧
  ∀ s : State,
    exec .xor16 s = .next (s.answered (.int ((s.inp.a.extractLsb' 0 16 ^^^ s.inp.b.extractLsb' 0 16).setWidth 64))) ∧
    exec .xor32 s = .next (s.answered (.int ((s.inp.a.extractLsb' 0 32 ^^^ s.inp.b.extractLsb' 0 32).setWidth 64))) ∧
    exec .xor64 s = .next (s.answered (.int (s.inp.a ^^^ s.inp.b)))

/-- The bytes of NOT are 0x04, 0x24, 0x44. not_W(a) is (2^W - 1) - mask_W(a), and not(not(a)) is mask_W(a). In every state
NOT.W answers OK with R the complement of A[W-1:0], zero-extended; nothing else changes. (Stated: R58.) -/
def Obligations.NotCommandsComplementTheLowBits : Prop :=
  encode .not16 = 0x04#8 ∧ encode .not32 = 0x24#8 ∧ encode .not64 = 0x44#8 ∧
  (∀ (w : Nat) (a : Int), (notW w a).toNat = 2 ^ w - 1 - (maskW w a).toNat ∧ notW w (notW w a).toNat = maskW w a) ∧
  ∀ s : State,
    exec .not16 s = .next (s.answered (.int ((~~~(s.inp.a.extractLsb' 0 16)).setWidth 64))) ∧
    exec .not32 s = .next (s.answered (.int ((~~~(s.inp.a.extractLsb' 0 32)).setWidth 64))) ∧
    exec .not64 s = .next (s.answered (.int (~~~ s.inp.a)))

/-- The bytes of LSHIFT are 0x05, 0x25, 0x45. For n >= 0, lshift_W(a, n) is mask_W(mask_W(a) * 2^n); for n < 0 it fails with
InvalidArgument. In every state with N >= 0 as a signed number, however large, LSHIFT.W answers OK with the shifted
value of A[W-1:0], zero-extended; with N < 0 it answers InvalidArgument, R = 0, no octets. Nothing else changes.
(Stated: R69.) -/
def Obligations.LshiftCommandsShiftLeft : Prop :=
  encode .lshift16 = 0x05#8 ∧ encode .lshift32 = 0x25#8 ∧ encode .lshift64 = 0x45#8 ∧
  (∀ (wd : Width) (a n : Int),
    (0 ≤ n → lshiftW wd.bits a n = .ok (maskW wd.bits ((maskW wd.bits a).toNat * 2 ^ n.toNat : Nat))) ∧
    (n < 0 → lshiftW wd.bits a n = .error .invalidArgument)) ∧
  ∀ s : State,
    (0 ≤ s.inp.n.toInt →
      exec .lshift16 s = .next (s.answered (.int (((s.inp.a.extractLsb' 0 16) <<< s.inp.n.toNat).setWidth 64))) ∧
      exec .lshift32 s = .next (s.answered (.int (((s.inp.a.extractLsb' 0 32) <<< s.inp.n.toNat).setWidth 64))) ∧
      exec .lshift64 s = .next (s.answered (.int (s.inp.a <<< s.inp.n.toNat)))) ∧
    (s.inp.n.toInt < 0 →
      exec .lshift16 s = .next (s.answered ⟨.invalidArgument, 0#64, []⟩) ∧
      exec .lshift32 s = .next (s.answered ⟨.invalidArgument, 0#64, []⟩) ∧
      exec .lshift64 s = .next (s.answered ⟨.invalidArgument, 0#64, []⟩))

/-- The bytes of RSHIFT are 0x06, 0x26, 0x46. For n >= 0, rshift_W(a, n) is floor(mask_W(a) / 2^n); for n < 0 it fails with
InvalidArgument. In every state with N >= 0 as a signed number, however large, RSHIFT.W answers OK with the shifted
value of A[W-1:0], zero-extended; with N < 0 it answers InvalidArgument, R = 0, no octets. Nothing else changes.
(Stated: R70.) -/
def Obligations.RshiftCommandsShiftRight : Prop :=
  encode .rshift16 = 0x06#8 ∧ encode .rshift32 = 0x26#8 ∧ encode .rshift64 = 0x46#8 ∧
  (∀ (wd : Width) (a n : Int),
    (0 ≤ n → rshiftW wd.bits a n = .ok (BitVec.ofNat wd.bits ((maskW wd.bits a).toNat / 2 ^ n.toNat))) ∧
    (n < 0 → rshiftW wd.bits a n = .error .invalidArgument)) ∧
  ∀ s : State,
    (0 ≤ s.inp.n.toInt →
      exec .rshift16 s = .next (s.answered (.int (((s.inp.a.extractLsb' 0 16) >>> s.inp.n.toNat).setWidth 64))) ∧
      exec .rshift32 s = .next (s.answered (.int (((s.inp.a.extractLsb' 0 32) >>> s.inp.n.toNat).setWidth 64))) ∧
      exec .rshift64 s = .next (s.answered (.int (s.inp.a >>> s.inp.n.toNat)))) ∧
    (s.inp.n.toInt < 0 →
      exec .rshift16 s = .next (s.answered ⟨.invalidArgument, 0#64, []⟩) ∧
      exec .rshift32 s = .next (s.answered ⟨.invalidArgument, 0#64, []⟩) ∧
      exec .rshift64 s = .next (s.answered ⟨.invalidArgument, 0#64, []⟩))

/-- The bytes of ARSHIFT are 0x07, 0x27, 0x47. For n >= 0, bit i of arshift_W(a, n) is bit i+n of mask_W(a) where i+n < W,
else the sign bit W-1; for n < 0 it fails with InvalidArgument. In every state with N >= 0 as a signed number, however
large, ARSHIFT.W answers OK with the shifted value of A[W-1:0], zero-extended; with N < 0 it answers InvalidArgument, R
= 0, no octets. Nothing else changes. (Stated: R71.) -/
def Obligations.ArshiftCommandsFillWithTheSign : Prop :=
  encode .arshift16 = 0x07#8 ∧ encode .arshift32 = 0x27#8 ∧ encode .arshift64 = 0x47#8 ∧
  (∀ (wd : Width) (a n : Int),
    (0 ≤ n → ∃ v : BitVec wd.bits, arshiftW wd.bits a n = .ok v ∧ ∀ i < wd.bits,
      v.getLsbD i = (maskW wd.bits a).getLsbD (min (i + n.toNat) (wd.bits - 1))) ∧
    (n < 0 → arshiftW wd.bits a n = .error .invalidArgument)) ∧
  ∀ s : State,
    (0 ≤ s.inp.n.toInt →
      exec .arshift16 s = .next (s.answered (.int ((BitVec.sshiftRight (s.inp.a.extractLsb' 0 16) s.inp.n.toNat).setWidth 64))) ∧
      exec .arshift32 s = .next (s.answered (.int ((BitVec.sshiftRight (s.inp.a.extractLsb' 0 32) s.inp.n.toNat).setWidth 64))) ∧
      exec .arshift64 s = .next (s.answered (.int (BitVec.sshiftRight s.inp.a s.inp.n.toNat)))) ∧
    (s.inp.n.toInt < 0 →
      exec .arshift16 s = .next (s.answered ⟨.invalidArgument, 0#64, []⟩) ∧
      exec .arshift32 s = .next (s.answered ⟨.invalidArgument, 0#64, []⟩) ∧
      exec .arshift64 s = .next (s.answered ⟨.invalidArgument, 0#64, []⟩))

/-- For every width, integer a and n >= 0, arshift_W(a, n) is mask_W(floor(signed_W(mask_W(a)) / 2^n)). (Stated: R74.) -/
def Obligations.ArithmeticShiftIsFloorDivision : Prop :=
  ∀ (wd : Width) (a : Int) (n : Nat),
    arshiftW wd.bits a n = .ok (maskW wd.bits ((maskW wd.bits a).toInt / (2 ^ n : Nat)))

/-- For a shift amount n >= 0: lshift and rshift by n >= W give 0; two shifts of one kind by m and n are one shift by m + n;
rshift(lshift(a, n), n) = and(a, 2^(W-n) - 1) for n <= W; arshift(a, n) = rshift(a, n) where bit W-1 of mask_W(a) is 0,
and = or(rshift(a, n), not(rshift(-1, n))) where it is 1. The functions named By are the shifts at amounts n >= 0.
(Stated: R76.) -/
def Obligations.ShiftLaws : Prop :=
  ∀ (wd : Width) (a : Int) (m n : Nat),
    (lshiftW wd.bits a n = .ok (lshiftBy wd.bits a n) ∧ rshiftW wd.bits a n = .ok (rshiftBy wd.bits a n) ∧
      arshiftW wd.bits a n = .ok (arshiftBy wd.bits a n)) ∧
    (wd.bits ≤ n → lshiftBy wd.bits a n = 0#wd.bits ∧ rshiftBy wd.bits a n = 0#wd.bits) ∧
    lshiftBy wd.bits (lshiftBy wd.bits a m).toNat n = lshiftBy wd.bits a (m + n) ∧
    rshiftBy wd.bits (rshiftBy wd.bits a m).toNat n = rshiftBy wd.bits a (m + n) ∧
    arshiftBy wd.bits (arshiftBy wd.bits a m).toNat n = arshiftBy wd.bits a (m + n) ∧
    (n ≤ wd.bits → rshiftBy wd.bits (lshiftBy wd.bits a n).toNat n = andW wd.bits a (2 ^ (wd.bits - n) - 1 : Nat)) ∧
    ((maskW wd.bits a).getLsbD (wd.bits - 1) = false → arshiftBy wd.bits a n = rshiftBy wd.bits a n) ∧
    ((maskW wd.bits a).getLsbD (wd.bits - 1) = true →
      arshiftBy wd.bits a n = orW wd.bits (rshiftBy wd.bits a n).toNat (notW wd.bits (rshiftBy wd.bits (-1) n).toNat).toNat)

/-- The bytes of ROL are 0x08, 0x28, 0x48. Bit i of rol_W(x, n) is bit (i - n) mod W of mask_W(x), for every integer n. In
every state ROL.W answers OK with A[W-1:0] rotated left by the low 4, 5 or 6 bits of N, zero-extended; nothing else
changes. (Stated: R72.) -/
def Obligations.RolCommandsRotateLeft : Prop :=
  encode .rol16 = 0x08#8 ∧ encode .rol32 = 0x28#8 ∧ encode .rol64 = 0x48#8 ∧
  (∀ (wd : Width) (x n : Int) (i : Nat), i < wd.bits →
    (rolW wd.bits x n).getLsbD i = (maskW wd.bits x).getLsbD (((i : Int) - n) % (wd.bits : Int)).toNat) ∧
  ∀ s : State,
    exec .rol16 s = .next (s.answered (.int (((s.inp.a.extractLsb' 0 16).rotateLeft (s.inp.n.extractLsb' 0 4).toNat).setWidth 64))) ∧
    exec .rol32 s = .next (s.answered (.int (((s.inp.a.extractLsb' 0 32).rotateLeft (s.inp.n.extractLsb' 0 5).toNat).setWidth 64))) ∧
    exec .rol64 s = .next (s.answered (.int (s.inp.a.rotateLeft (s.inp.n.extractLsb' 0 6).toNat)))

/-- The bytes of ROR are 0x09, 0x29, 0x49. Bit i of ror_W(x, n) is bit (i + n) mod W of mask_W(x), for every integer n;
ror(x, n) = rol(x, -n). In every state ROR.W answers OK with A[W-1:0] rotated right by the low 4, 5 or 6 bits of N,
zero-extended; nothing else changes. (Stated: R73.) -/
def Obligations.RorCommandsRotateRight : Prop :=
  encode .ror16 = 0x09#8 ∧ encode .ror32 = 0x29#8 ∧ encode .ror64 = 0x49#8 ∧
  (∀ (wd : Width) (x n : Int) (i : Nat), i < wd.bits →
    (rorW wd.bits x n).getLsbD i = (maskW wd.bits x).getLsbD (((i : Int) + n) % (wd.bits : Int)).toNat) ∧
  (∀ (wd : Width) (x n : Int), rorW wd.bits x n = rolW wd.bits x (-n)) ∧
  ∀ s : State,
    exec .ror16 s = .next (s.answered (.int (((s.inp.a.extractLsb' 0 16).rotateRight (s.inp.n.extractLsb' 0 4).toNat).setWidth 64))) ∧
    exec .ror32 s = .next (s.answered (.int (((s.inp.a.extractLsb' 0 32).rotateRight (s.inp.n.extractLsb' 0 5).toNat).setWidth 64))) ∧
    exec .ror64 s = .next (s.answered (.int (s.inp.a.rotateRight (s.inp.n.extractLsb' 0 6).toNat)))

/-- For every width, x and integers m, n: rol(ror(x, n), n) = mask_W(x) = ror(rol(x, n), n); rol(x, W) = mask_W(x);
rol(rol(x, m), n) = rol(x, m + n); rol(not(x), n) = not(rol(x, n)) and the same for ror; a rotate either way keeps the
number of 1 bits. (Stated: R75.) -/
def Obligations.RotateLaws : Prop :=
  ∀ (wd : Width) (x m n : Int),
    rolW wd.bits (rorW wd.bits x n).toNat n = maskW wd.bits x ∧
    rorW wd.bits (rolW wd.bits x n).toNat n = maskW wd.bits x ∧
    rolW wd.bits x wd.bits = maskW wd.bits x ∧
    rolW wd.bits (rolW wd.bits x m).toNat n = rolW wd.bits x (m + n) ∧
    rolW wd.bits (notW wd.bits x).toNat n = notW wd.bits (rolW wd.bits x n).toNat ∧
    rorW wd.bits (notW wd.bits x).toNat n = notW wd.bits (rorW wd.bits x n).toNat ∧
    (List.range wd.bits).countP (fun i => (rolW wd.bits x n).getLsbD i) =
      (List.range wd.bits).countP (fun i => (maskW wd.bits x).getLsbD i) ∧
    (List.range wd.bits).countP (fun i => (rorW wd.bits x n).getLsbD i) =
      (List.range wd.bits).countP (fun i => (maskW wd.bits x).getLsbD i)

/-- The bytes of ADD are 0x0A, 0x2A, 0x4A. add_W(a, b) is the residue modulo 2^W of mask_W(a) + mask_W(b). In every state
ADD.W answers OK with that sum of A[W-1:0] and B[W-1:0], zero-extended, never reports an overflow, and changes nothing
else. (Stated: R85.) -/
def Obligations.AddCommandsWrapAround : Prop :=
  encode .add16 = 0x0A#8 ∧ encode .add32 = 0x2A#8 ∧ encode .add64 = 0x4A#8 ∧
  (∀ (w : Nat) (a b : Int), (addW w a b).toNat = ((maskW w a).toNat + (maskW w b).toNat) % 2 ^ w) ∧
  ∀ s : State,
    exec .add16 s = .next (s.answered (.int ((s.inp.a.extractLsb' 0 16 + s.inp.b.extractLsb' 0 16).setWidth 64))) ∧
    exec .add32 s = .next (s.answered (.int ((s.inp.a.extractLsb' 0 32 + s.inp.b.extractLsb' 0 32).setWidth 64))) ∧
    exec .add64 s = .next (s.answered (.int (s.inp.a + s.inp.b)))

/-- add_W(a, b) = mask_W(a + b); ADD is commutative and associative; add(a, add(not(a), 1)) = 0; add(a, add(not(b), 1)) =
mask_W(a - b); the carry out, 1 exactly when mask_W(a) + mask_W(b) >= 2^W, is bit W-1 of (ma AND mb) OR ((ma OR mb) AND
not(add(a, b))). (Stated: R86.) -/
def Obligations.AdderLaws : Prop :=
  ∀ (wd : Width) (a b c : Int),
    addW wd.bits a b = maskW wd.bits (a + b) ∧
    addW wd.bits a b = addW wd.bits b a ∧
    addW wd.bits (addW wd.bits a b).toNat c = addW wd.bits a (addW wd.bits b c).toNat ∧
    addW wd.bits a (addW wd.bits (notW wd.bits a).toNat 1).toNat = 0#wd.bits ∧
    addW wd.bits a (addW wd.bits (notW wd.bits b).toNat 1).toNat = maskW wd.bits (a - b) ∧
    (2 ^ wd.bits ≤ (maskW wd.bits a).toNat + (maskW wd.bits b).toNat ↔
      ((maskW wd.bits a &&& maskW wd.bits b) |||
        ((maskW wd.bits a ||| maskW wd.bits b) &&& notW wd.bits (addW wd.bits a b).toNat)).getLsbD (wd.bits - 1) = true)

/-- The bytes of TOBE are 0x0B, 0x2B, 0x4B. Octet i of the sequence is the floor of mask_W(x) by 2^(8(NB-1-i)) modulo 256,
and there are NB(W) of them. In every state TOBE.W answers OK with RB the octets A[8(NB-1-i)+7 : 8(NB-1-i)], i = 0 ..
NB-1, and R = 0; nothing else changes. (Stated: R91.) -/
def Obligations.TobeCommandsMostSignificantFirst : Prop :=
  encode .tobe16 = 0x0B#8 ∧ encode .tobe32 = 0x2B#8 ∧ encode .tobe64 = 0x4B#8 ∧
  (∀ (w : Nat) (x : Int), (toBeW w x).length = nb w ∧ ∀ i < nb w, ∃ o : Octet, (toBeW w x)[i]? = some o ∧
    o.toNat = (maskW w x).toNat / 2 ^ (8 * (nb w - 1 - i)) % 256) ∧
  ∀ s : State,
    exec .tobe16 s = .next (s.answered ⟨.ok, 0#64, (List.range 2).map fun i => s.inp.a.extractLsb' (8 * (1 - i)) 8⟩) ∧
    exec .tobe32 s = .next (s.answered ⟨.ok, 0#64, (List.range 4).map fun i => s.inp.a.extractLsb' (8 * (3 - i)) 8⟩) ∧
    exec .tobe64 s = .next (s.answered ⟨.ok, 0#64, (List.range 8).map fun i => s.inp.a.extractLsb' (8 * (7 - i)) 8⟩)

/-- The bytes of TOLE are 0x0C, 0x2C, 0x4C. Octet i of the sequence is the floor of mask_W(x) by 2^(8i) modulo 256, and
there are NB(W) of them. In every state TOLE.W answers OK with RB the octets A[8i+7 : 8i], i = 0 .. NB-1, and R = 0;
nothing else changes. (Stated: R92.) -/
def Obligations.ToleCommandsLeastSignificantFirst : Prop :=
  encode .tole16 = 0x0C#8 ∧ encode .tole32 = 0x2C#8 ∧ encode .tole64 = 0x4C#8 ∧
  (∀ (w : Nat) (x : Int), (toLeW w x).length = nb w ∧ ∀ i < nb w, ∃ o : Octet, (toLeW w x)[i]? = some o ∧
    o.toNat = (maskW w x).toNat / 2 ^ (8 * i) % 256) ∧
  ∀ s : State,
    exec .tole16 s = .next (s.answered ⟨.ok, 0#64, (List.range 2).map fun i => s.inp.a.extractLsb' (8 * i) 8⟩) ∧
    exec .tole32 s = .next (s.answered ⟨.ok, 0#64, (List.range 4).map fun i => s.inp.a.extractLsb' (8 * i) 8⟩) ∧
    exec .tole64 s = .next (s.answered ⟨.ok, 0#64, (List.range 8).map fun i => s.inp.a.extractLsb' (8 * i) 8⟩)

/-- The bytes of FROMBE are 0x0D, 0x2D, 0x4D. A parse of a sequence at an offset fails with InsufficientData iff LEN -
offset < NB(W), and else gives the sum of octet offset+i times 2^(8(NB-1-i)). In every state with OFF + NB(W) <= LEN,
FROMBE.W answers OK with R the octets concatenated in that order, zero-extended, at any offset, aligned or not; with LEN
< OFF + NB(W) it answers InsufficientData, R = 0, no octets. Nothing else changes. (Stated: R93, R95.) -/
def Obligations.FrombeCommandsReadMostSignificantFirst : Prop :=
  encode .frombe16 = 0x0D#8 ∧ encode .frombe32 = 0x2D#8 ∧ encode .frombe64 = 0x4D#8 ∧
  (∀ (wd : Width) (m : Memory) (off : Nat),
    ((m.length : Int) - (off : Int) < (nb wd.bits : Int) → fromBeW wd.bits m off = .error .insufficientData) ∧
    (¬ (m.length : Int) - (off : Int) < (nb wd.bits : Int) → ∃ v : BitVec wd.bits, fromBeW wd.bits m off = .ok v ∧
      v.toNat = ((List.range (nb wd.bits)).map fun i => ((octetAt m (off + i)).getD 0#8).toNat * 2 ^ (8 * (nb wd.bits - 1 - i))).sum)) ∧
  ∀ s : State,
    let c : Nat → Octet := fun i => (octetAt s.inp.buf (s.inp.off.toNat + i)).getD 0#8
    (s.inp.off.toNat + 2 ≤ s.inp.buf.length → exec .frombe16 s = .next (s.answered (.int ((c 0 ++ c 1).setWidth 64)))) ∧
    (s.inp.buf.length < s.inp.off.toNat + 2 → exec .frombe16 s = .next (s.answered ⟨.insufficientData, 0#64, []⟩)) ∧
    (s.inp.off.toNat + 4 ≤ s.inp.buf.length → exec .frombe32 s = .next (s.answered (.int ((c 0 ++ c 1 ++ c 2 ++ c 3).setWidth 64)))) ∧
    (s.inp.buf.length < s.inp.off.toNat + 4 → exec .frombe32 s = .next (s.answered ⟨.insufficientData, 0#64, []⟩)) ∧
    (s.inp.off.toNat + 8 ≤ s.inp.buf.length → exec .frombe64 s = .next (s.answered (.int ((c 0 ++ c 1 ++ c 2 ++ c 3 ++ c 4 ++ c 5 ++ c 6 ++ c 7).setWidth 64)))) ∧
    (s.inp.buf.length < s.inp.off.toNat + 8 → exec .frombe64 s = .next (s.answered ⟨.insufficientData, 0#64, []⟩))

/-- The bytes of FROMLE are 0x0E, 0x2E, 0x4E. A parse of a sequence at an offset fails with InsufficientData iff LEN -
offset < NB(W), and else gives the sum of octet offset+i times 2^(8i). In every state with OFF + NB(W) <= LEN, FROMLE.W
answers OK with R the octets concatenated in that order, zero-extended, at any offset, aligned or not; with LEN < OFF +
NB(W) it answers InsufficientData, R = 0, no octets. Nothing else changes. (Stated: R94, R95.) -/
def Obligations.FromleCommandsReadLeastSignificantFirst : Prop :=
  encode .fromle16 = 0x0E#8 ∧ encode .fromle32 = 0x2E#8 ∧ encode .fromle64 = 0x4E#8 ∧
  (∀ (wd : Width) (m : Memory) (off : Nat),
    ((m.length : Int) - (off : Int) < (nb wd.bits : Int) → fromLeW wd.bits m off = .error .insufficientData) ∧
    (¬ (m.length : Int) - (off : Int) < (nb wd.bits : Int) → ∃ v : BitVec wd.bits, fromLeW wd.bits m off = .ok v ∧
      v.toNat = ((List.range (nb wd.bits)).map fun i => ((octetAt m (off + i)).getD 0#8).toNat * 2 ^ (8 * i)).sum)) ∧
  ∀ s : State,
    let c : Nat → Octet := fun i => (octetAt s.inp.buf (s.inp.off.toNat + i)).getD 0#8
    (s.inp.off.toNat + 2 ≤ s.inp.buf.length → exec .fromle16 s = .next (s.answered (.int ((c 1 ++ c 0).setWidth 64)))) ∧
    (s.inp.buf.length < s.inp.off.toNat + 2 → exec .fromle16 s = .next (s.answered ⟨.insufficientData, 0#64, []⟩)) ∧
    (s.inp.off.toNat + 4 ≤ s.inp.buf.length → exec .fromle32 s = .next (s.answered (.int ((c 3 ++ c 2 ++ c 1 ++ c 0).setWidth 64)))) ∧
    (s.inp.buf.length < s.inp.off.toNat + 4 → exec .fromle32 s = .next (s.answered ⟨.insufficientData, 0#64, []⟩)) ∧
    (s.inp.off.toNat + 8 ≤ s.inp.buf.length → exec .fromle64 s = .next (s.answered (.int ((c 7 ++ c 6 ++ c 5 ++ c 4 ++ c 3 ++ c 2 ++ c 1 ++ c 0).setWidth 64)))) ∧
    (s.inp.buf.length < s.inp.off.toNat + 8 → exec .fromle64 s = .next (s.answered ⟨.insufficientData, 0#64, []⟩))

/-- For every width, integer x and sequences p and q: from_be(p ++ to_be(x) ++ q, len(p)) = mask_W(x), so from_be(to_be(x))
= x for a canonical x, and the same for little-endian. For a sequence s of NB(W) octets, from_be(s, 0) succeeds and
to_be of its value is s, and the same for little-endian. (Stated: R96.) -/
def Obligations.CodecRoundTrip : Prop :=
  ∀ (wd : Width),
    (∀ (x : Int) (p q : Memory),
      fromBeW wd.bits (p ++ toBeW wd.bits x ++ q) p.length = .ok (maskW wd.bits x) ∧
      fromLeW wd.bits (p ++ toLeW wd.bits x ++ q) p.length = .ok (maskW wd.bits x)) ∧
    (∀ m : Memory, m.length = nb wd.bits →
      (∃ v : BitVec wd.bits, fromBeW wd.bits m 0 = .ok v ∧ toBeW wd.bits v.toNat = m) ∧
      (∃ v : BitVec wd.bits, fromLeW wd.bits m 0 = .ok v ∧ toLeW wd.bits v.toNat = m))

/-- For every width and integer x, to_le_bytes_W(x) is the reverse of to_be_bytes_W(x), and from_le of to_be of x is from_be
of to_le of x: the value with its octets in the opposite order. (Stated: R97.) -/
def Obligations.LittleEndianIsBigEndianReversed : Prop :=
  ∀ (wd : Width) (x : Int),
    toLeW wd.bits x = (toBeW wd.bits x).reverse ∧
    fromLeW wd.bits (toBeW wd.bits x) 0 = fromBeW wd.bits (toLeW wd.bits x) 0

/-- The byte of EQ.64 is 0x50. w64_eq(a, b) holds exactly when both halves are equal. In every state EQ.64 answers OK with R
= 1 if A = B and R = 0 otherwise; nothing else changes. (Stated: R130.) -/
def Obligations.EqCommandComparesAllBits : Prop :=
  encode .eq64 = 0x50#8 ∧ (∀ x y : Wide64, w64Eq x y = true ↔ x.high = y.high ∧ x.low = y.low) ∧
  ∀ s : State,
    (s.inp.a = s.inp.b → exec .eq64 s = .next (s.answered (.int 1#64))) ∧
    (s.inp.a ≠ s.inp.b → exec .eq64 s = .next (s.answered (.int 0#64)))

/-- The byte of ISZERO.64 is 0x51. w64_is_zero(x) holds exactly when both halves are zero, and equals w64_eq(x, (0, 0)). In
every state ISZERO.64 answers OK with R = 1 if A = 0 and R = 0 otherwise; nothing else changes. (Stated: R131.) -/
def Obligations.IszeroCommandTestsAllBits : Prop :=
  encode .iszero64 = 0x51#8 ∧
  (∀ x : Wide64, (w64IsZero x = true ↔ x.high = 0#32 ∧ x.low = 0#32) ∧ w64IsZero x = w64Eq x ⟨0#32, 0#32⟩) ∧
  ∀ s : State,
    (s.inp.a = 0#64 → exec .iszero64 s = .next (s.answered (.int 1#64))) ∧
    (s.inp.a ≠ 0#64 → exec .iszero64 s = .next (s.answered (.int 0#64)))

/-- The byte of TONUM.64 is 0x52. In every state with A[63:53] = 0, TONUM.64 answers OK with R = A and changes nothing else.
(The rule's other case is the statement TonumCommandDrawsAboveTheThreshold.) (Derived: 46_wide64_convert_compare.md
section 2 (R132, R133).) -/
def Obligations.TonumCommandIsExactUpToTheThreshold : Prop :=
  encode .tonum64 = 0x52#8 ∧
  ∀ s : State, s.inp.a.extractLsb' 53 11 = 0#11 → exec .tonum64 s = .next (s.answered (.int s.inp.a))

/-- In every state with A[63:53] not 0, TONUM.64 answers OK with R the value of Config.tonumDraw, of which nothing is known,
at the draw counter and A, and the counter goes up by one, so that the next such transaction draws afresh. That the draw
is a function of a counter and A is the model's choice (log entry 5). (Derived: 46_wide64_convert_compare.md section 2
(R133), 93_implementation_defined.md section 1 (U1), notes/assumptions/5.md.) -/
def Obligations.TonumCommandDrawsAboveTheThreshold : Prop :=
  ∀ s : State, s.inp.a.extractLsb' 53 11 ≠ 0#11 →
    exec .tonum64 s = .next
      { s with answers := s.answers ++ [⟨.ok, Config.tonumDraw s.draws s.inp.a, []⟩], draws := s.draws + 1 }

/-- The byte of TONUMS.64 is 0x53. w64_to_number_strict fails with PrecisionExceeded iff high > 0x001FFFFF, equivalently iff
the value is at least 2^53, and else gives high * 2^32 + low. In every state with A[63:53] = 0, TONUMS.64 answers OK
with R = A; otherwise PrecisionExceeded, R = 0, no octets. Nothing else changes. (Stated: R134.) -/
def Obligations.TonumsCommandFailsFromTwoToTheFiftyThree : Prop :=
  encode .tonums64 = 0x53#8 ∧
  (∀ x : Wide64,
    (0x001FFFFF < x.high.toNat ↔ 2 ^ 53 ≤ x.high.toNat * 2 ^ 32 + x.low.toNat) ∧
    (0x001FFFFF < x.high.toNat → w64ToNumberStrict x = .error .precisionExceeded) ∧
    (x.high.toNat ≤ 0x001FFFFF → ∃ v : BitVec 64, w64ToNumberStrict x = .ok v ∧ v.toNat = x.high.toNat * 2 ^ 32 + x.low.toNat)) ∧
  ∀ s : State,
    (s.inp.a.extractLsb' 53 11 = 0#11 → exec .tonums64 s = .next (s.answered (.int s.inp.a))) ∧
    (s.inp.a.extractLsb' 53 11 ≠ 0#11 → exec .tonums64 s = .next (s.answered ⟨.precisionExceeded, 0#64, []⟩))

/-- The byte of FROMNUM.64 is 0x54. For 0 <= v <= 2^64 - 1, w64_from_number(v) is (floor(v / 2^32), v mod 2^32). In every
state FROMNUM.64 answers OK with R = A and changes nothing else. (Stated: R135.) -/
def Obligations.FromnumCommandReturnsItsOperand : Prop :=
  encode .fromnum64 = 0x54#8 ∧
  (∀ v : BitVec 64, (w64FromNumber v).high.toNat = v.toNat / 2 ^ 32 ∧ (w64FromNumber v).low.toNat = v.toNat % 2 ^ 32) ∧
  ∀ s : State, exec .fromnum64 s = .next (s.answered (.int s.inp.a))

/-- For every Wide64 x with high <= 0x001FFFFF, whatever the unspecified value u is, from_number(to_number(x)) = x and the
strict conversion gives the non-strict value; for every v <= 2^53 - 1, to_number(from_number(v)) = v. (Stated: R136.) -/
def Obligations.NumberConversionLaws : Prop :=
  ∀ u : BitVec 64,
    (∀ x : Wide64, x.high.toNat ≤ 0x001FFFFF →
      w64FromNumber (w64ToNumber x u) = x ∧ w64ToNumberStrict x = .ok (w64ToNumber x u)) ∧
    (∀ v : BitVec 64, v.toNat ≤ 2 ^ 53 - 1 → w64ToNumber (w64FromNumber v) u = v)

/-- For all integers: mask(mask(x)) = mask(x); mask(x) = x iff 0 <= x <= 2^W - 1; mask(x + k 2^W) = mask(x); mask of a sum
or product is mask of the sum or product of the masks; for W' >= W, mask_W(mask_W'(x)) = mask_W(x). (Stated: R52.) -/
def Obligations.MaskLaws : Prop :=
  ∀ (w : Nat) (x y k : Int),
    maskW w (maskW w x).toNat = maskW w x ∧
    (((maskW w x).toNat : Int) = x ↔ 0 ≤ x ∧ x ≤ 2 ^ w - 1) ∧
    maskW w (x + k * 2 ^ w) = maskW w x ∧
    maskW w (x + y) = maskW w ((maskW w x).toNat + (maskW w y).toNat : Nat) ∧
    maskW w (x * y) = maskW w ((maskW w x).toNat * (maskW w y).toNat : Nat) ∧
    ∀ w' : Nat, w ≤ w' → maskW w (maskW w' x).toNat = maskW w x

/-- AND, OR, XOR are commutative and associative; and(a, not(a)) = 0; or(a, not(a)) = 2^W - 1; xor(xor(a, b), b) =
mask_W(a); De Morgan both ways; each of the four depends on its arguments only through mask_W of them. Canonicity is the
type of the result. (Stated: R59.) -/
def Obligations.BitwiseLaws : Prop :=
  ∀ (w : Nat) (a b c : Int),
    (andW w a b = andW w b a ∧ orW w a b = orW w b a ∧ xorW w a b = xorW w b a) ∧
    (andW w (andW w a b).toNat c = andW w a (andW w b c).toNat ∧ orW w (orW w a b).toNat c = orW w a (orW w b c).toNat ∧
      xorW w (xorW w a b).toNat c = xorW w a (xorW w b c).toNat) ∧
    andW w a (notW w a).toNat = 0#w ∧ (orW w a (notW w a).toNat).toNat = 2 ^ w - 1 ∧
    xorW w (xorW w a b).toNat b = maskW w a ∧
    notW w (andW w a b).toNat = orW w (notW w a).toNat (notW w b).toNat ∧
    notW w (orW w a b).toNat = andW w (notW w a).toNat (notW w b).toNat ∧
    (andW w a b = andW w (maskW w a).toNat (maskW w b).toNat ∧ orW w a b = orW w (maskW w a).toNat (maskW w b).toNat ∧
      xorW w a b = xorW w (maskW w a).toNat (maskW w b).toNat ∧ notW w a = notW w (maskW w a).toNat)

/-- For all Wide64 x and y, the value of w64_and(x, y), w64_or(x, y), w64_xor(x, y), w64_not(x) and w64_mask(x) is and_64,
or_64, xor_64, not_64 and mask_64 of the values of x and y. (Derived: 45_wide64_composite.md section 1 (R105, R122),
45_wide64_composite.md section 2 (R107, R108, R109, R110, R116).) -/
def Obligations.CompositeBitwiseAgreesWithGeneric : Prop :=
  ∀ x y : Wide64,
    wideVal (w64And x y) = andW 64 (wideVal x).toNat (wideVal y).toNat ∧
    wideVal (w64Or x y) = orW 64 (wideVal x).toNat (wideVal y).toNat ∧
    wideVal (w64Xor x y) = xorW 64 (wideVal x).toNat (wideVal y).toNat ∧
    wideVal (w64Not x) = notW 64 (wideVal x).toNat ∧
    wideVal (w64Mask x) = maskW 64 (wideVal x).toNat

/-- For all Wide64 x and y, the value of w64_add(x, y) is add_64 of the values of x and y. (Derived: 45_wide64_composite.md
section 1 (R105, R122), 45_wide64_composite.md section 5 (R117).) -/
def Obligations.CompositeAddAgreesWithGeneric : Prop :=
  ∀ x y : Wide64, wideVal (w64Add x y) = addW 64 (wideVal x).toNat (wideVal y).toNat

/-- For every Wide64 x and integer n, w64_lshift, w64_rshift and w64_arshift of x by n fail exactly where lshift_64,
rshift_64 and arshift_64 of the value of x by n fail, with the same error, and else their value is the same. (Derived:
45_wide64_composite.md section 1 (R105, R122), 45_wide64_composite.md section 3 (R111, R112, R113).) -/
def Obligations.CompositeShiftsAgreeWithGeneric : Prop :=
  ∀ (x : Wide64) (n : Int),
    (w64Lshift x n).map wideVal = lshiftW 64 (wideVal x).toNat n ∧
    (w64Rshift x n).map wideVal = rshiftW 64 (wideVal x).toNat n ∧
    (w64Arshift x n).map wideVal = arshiftW 64 (wideVal x).toNat n

/-- For every Wide64 x and integer n, the value of w64_rol(x, n) is rol_64 of the value of x by n, and the same for ror. The
composite formula for amounts below 32 is the recovered one of R114 and R115 (log entry 16, DEDUCED). (Derived:
45_wide64_composite.md section 1 (R105, R122), 45_wide64_composite.md section 4 (R114, R115), notes/assumptions/16.md.) -/
def Obligations.CompositeRotatesAgreeWithGeneric : Prop :=
  ∀ (x : Wide64) (n : Int),
    wideVal (w64Rol x n) = rolW 64 (wideVal x).toNat n ∧
    wideVal (w64Ror x n) = rorW 64 (wideVal x).toNat n

/-- For every Wide64 x, w64_to_be_bytes(x) and w64_to_le_bytes(x) are to_be_bytes_64 and to_le_bytes_64 of the value of x.
For every sequence and offset, w64_from_be_bytes and w64_from_le_bytes fail exactly where the generic parses at W = 64
fail, with the same error, and else give the same value. (Derived: 45_wide64_composite.md section 1 (R105, R122),
45_wide64_composite.md section 6 (R118, R119, R120, R121).) -/
def Obligations.CompositeCodecAgreesWithGeneric : Prop :=
  (∀ x : Wide64, w64ToBe x = toBeW 64 (wideVal x).toNat ∧ w64ToLe x = toLeW 64 (wideVal x).toNat) ∧
  ∀ (m : Memory) (off : Nat),
    (w64FromBe m off).map wideVal = fromBeW 64 m off ∧ (w64FromLe m off).map wideVal = fromLeW 64 m off

/-- val(high, low) is high * 2^32 + low; pair(v) is (floor(v / 2^32), v mod 2^32); pair(val(x)) = x and val(pair(v)) = v.
(Derived: 10_state.md section 1 (R11), 30_encoding.md section 2 (R33).) -/
def Obligations.WidePairAndValueAreInverse : Prop :=
  (∀ x : Wide64, (wideVal x).toNat = x.high.toNat * 2 ^ 32 + x.low.toNat ∧ widePair (wideVal x) = x) ∧
  ∀ v : BitVec 64, (widePair v).high.toNat = v.toNat / 2 ^ 32 ∧ (widePair v).low.toNat = v.toNat % 2 ^ 32 ∧
    wideVal (widePair v) = v

/-- For every 64-bit port value and every W up to 64, masking its unsigned reading and masking its signed reading both give
its bits W-1 to 0. (Derived: 30_encoding.md section 2 (R32).) -/
def Obligations.PortReadingsGiveTheSameMask : Prop :=
  ∀ (p : BitVec 64) (w : Nat), w ≤ 64 →
    maskW w (p.toNat : Int) = p.extractLsb' 0 w ∧ maskW w p.toInt = p.extractLsb' 0 w

/-- In every state each of the nine shift commands answers InvalidArgument, R = 0, no octets, iff N[31] = 1. The amount n is
negative iff N[31] = 1, and n mod 16, 32, 64 is N[3:0], N[4:0], N[5:0]. With N[31] = 0, n >= 16, 32, 64 iff N[30:4],
N[30:5], N[30:6] is not 0; then LSHIFT.W and RSHIFT.W answer OK with R = 0, and ARSHIFT.W answers OK with all W bits of
R equal to A[W-1]. (Stated: R67.) -/
def Obligations.AmountPortReadings : Prop :=
  (∀ (i : Instr) (s : State), (i.op = .lshift ∨ i.op = .rshift ∨ i.op = .arshift) →
    (exec i s = .next (s.answered ⟨.invalidArgument, 0#64, []⟩) ↔ s.inp.n.getLsbD 31 = true)) ∧
  ∀ s : State,
    (amount s < 0 ↔ s.inp.n.getLsbD 31 = true) ∧
    rotateAmount 16 (amount s) = (s.inp.n.extractLsb' 0 4).toNat ∧
    rotateAmount 32 (amount s) = (s.inp.n.extractLsb' 0 5).toNat ∧
    rotateAmount 64 (amount s) = (s.inp.n.extractLsb' 0 6).toNat ∧
    (s.inp.n.getLsbD 31 = false →
      (16 ≤ amount s ↔ s.inp.n.extractLsb' 4 27 ≠ 0#27) ∧ (32 ≤ amount s ↔ s.inp.n.extractLsb' 5 26 ≠ 0#26) ∧
      (64 ≤ amount s ↔ s.inp.n.extractLsb' 6 25 ≠ 0#25) ∧
      (s.inp.n.extractLsb' 4 27 ≠ 0#27 →
        exec .lshift16 s = .next (s.answered (.int 0#64)) ∧ exec .rshift16 s = .next (s.answered (.int 0#64)) ∧
        exec .arshift16 s = .next (s.answered (.int (if s.inp.a.getLsbD 15 then 0xFFFF#64 else 0#64)))) ∧
      (s.inp.n.extractLsb' 5 26 ≠ 0#26 →
        exec .lshift32 s = .next (s.answered (.int 0#64)) ∧ exec .rshift32 s = .next (s.answered (.int 0#64)) ∧
        exec .arshift32 s = .next (s.answered (.int (if s.inp.a.getLsbD 31 then 0xFFFFFFFF#64 else 0#64)))) ∧
      (s.inp.n.extractLsb' 6 25 ≠ 0#25 →
        exec .lshift64 s = .next (s.answered (.int 0#64)) ∧ exec .rshift64 s = .next (s.answered (.int 0#64)) ∧
        exec .arshift64 s = .next (s.answered (.int (if s.inp.a.getLsbD 63 then 0xFFFFFFFFFFFFFFFF#64 else 0#64)))))

/-- MemRead(addr, n) is defined iff addr + n <= LEN; where it is, it has n octets and its octet i is BUF[addr + i]. (Stated:
R22.) -/
def Obligations.MemReadIsDefinedInsideTheSequence : Prop :=
  ∀ (m : Memory) (addr n : Nat),
    ((memRead m addr n).isSome = true ↔ addr + n ≤ m.length) ∧
    ∀ cs : List Octet, memRead m addr n = some cs → cs.length = n ∧ ∀ i < n, cs[i]? = octetAt m (addr + i)

/-- OK is 0, InvalidArgument 1, InsufficientData 2, PrecisionExceeded 3, IllegalCommand 4; no status has the code 5, 6 or 7;
different statuses have different codes. (Stated: R145.) -/
def Obligations.StatusCodes : Prop :=
  (statusCode .ok = 0#3 ∧ statusCode .invalidArgument = 1#3 ∧ statusCode .insufficientData = 2#3 ∧
    statusCode .precisionExceeded = 3#3 ∧ statusCode .illegalCommand = 4#3) ∧
  (∀ x : Status, statusCode x ≠ 5#3 ∧ statusCode x ≠ 6#3 ∧ statusCode x ≠ 7#3) ∧
  ∀ x y : Status, statusCode x = statusCode y → x = y

/-- If a line with a name runs, the unit gives it an answer; if its STATUS is OK, the name then stands for the octets of RB
where the operation is TOBE or TOLE and for R otherwise; if not, the name has no value, also where an earlier line had
bound it (the last point is the model's choice, log entry 14). (Derived: 30_encoding.md section 7 (R45),
notes/assumptions/14.md.) -/
def Obligations.ScriptNameBoundOnlyOnOk : Prop :=
  ∀ (h h' : HostRun) (l : Line) (nm : String), l.bind = some nm → runLine h l = .ok h' →
    ∃ x : Response, h'.unit.answers = h.unit.answers ++ [x] ∧
      (x.status = .ok → (l.command.op = .tobe ∨ l.command.op = .tole) → lookupName h'.names nm = .ok (.octets x.rb)) ∧
      (x.status = .ok → ¬ (l.command.op = .tobe ∨ l.command.op = .tole) → lookupName h'.names nm = .ok (.num x.r)) ∧
      (x.status ≠ .ok → lookupName h'.names nm = .error .noValue)

/-- For every command i whose operation has a generic rule, and every state, exec of i is the reply to the outcome of the
generic definition at the width of i, failures included. At W = 16 and 32 that is the definition exec runs; at W = 64
exec runs the composite definition, so there it says that the two give the same answer, the same error on the same
inputs, and the same next state. (Derived: 45_wide64_composite.md section 1 (R105, R122), 00_scope.md section 5 (R5),
92_eei_decisions.md D28.) -/
def Obligations.EveryGenericDefinitionGivesTheAnswer : Prop :=
  ∀ (i : Instr) (s : State) (o : Except ErrorKind Value), genericOutcome i.width.bits s i.op = some o →
    exec i s = reply s o
end

