-- ==== Sys2Proof/Laws/State.lean ====
section
/-! SUPPORT. One lemma per field of State per update, and the updates' normal forms. -/

namespace Sys2Proof.Machine

@[simp] theorem State.answered_inp (s : State) (x : Response) : (s.answered x).inp = s.inp := rfl
@[simp] theorem State.answered_pending (s : State) (x : Response) : (s.answered x).pending = s.pending := rfl
@[simp] theorem State.answered_answers (s : State) (x : Response) : (s.answered x).answers = s.answers ++ [x] := rfl
@[simp] theorem State.answered_draws (s : State) (x : Response) : (s.answered x).draws = s.draws := rfl

@[simp] theorem State.failed_inp (s : State) (e : Status) : (s.failed e).inp = s.inp := rfl
@[simp] theorem State.failed_pending (s : State) (e : Status) : (s.failed e).pending = s.pending := rfl
@[simp] theorem State.failed_answers (s : State) (e : Status) :
    (s.failed e).answers = s.answers ++ [Response.failed e] := rfl
@[simp] theorem State.failed_draws (s : State) (e : Status) : (s.failed e).draws = s.draws := rfl

@[simp] theorem State.drawn_inp (s : State) : s.drawn.inp = s.inp := rfl
@[simp] theorem State.drawn_pending (s : State) : s.drawn.pending = s.pending := rfl
@[simp] theorem State.drawn_answers (s : State) : s.drawn.answers = s.answers := rfl
@[simp] theorem State.drawn_draws (s : State) : s.drawn.draws = s.draws + 1 := rfl

@[simp] theorem State.accept_inp (s : State) (t : Transaction) (r : List Transaction) : (s.accept t r).inp = t := rfl
@[simp] theorem State.accept_pending (s : State) (t : Transaction) (r : List Transaction) : (s.accept t r).pending = r := rfl
@[simp] theorem State.accept_answers (s : State) (t : Transaction) (r : List Transaction) :
    (s.accept t r).answers = s.answers := rfl
@[simp] theorem State.accept_draws (s : State) (t : Transaction) (r : List Transaction) :
    (s.accept t r).draws = s.draws := rfl

@[simp] theorem State.present_inp (s : State) (t : Transaction) : (s.present t).inp = s.inp := rfl
@[simp] theorem State.present_pending (s : State) (t : Transaction) : (s.present t).pending = s.pending ++ [t] := rfl
@[simp] theorem State.present_answers (s : State) (t : Transaction) : (s.present t).answers = s.answers := rfl
@[simp] theorem State.present_draws (s : State) (t : Transaction) : (s.present t).draws = s.draws := rfl

theorem State.withNextCommand_nil {s : State} (h : s.pending = []) (c : BitVec 8) :
    s.withNextCommand c = { s with pending := [{ s.inp with cmd := c }] } := by
  simp [State.withNextCommand, h]

theorem State.withNextCommand_cons {s : State} {t : Transaction} {r : List Transaction} (h : s.pending = t :: r) (c : BitVec 8) :
    s.withNextCommand c = { s with pending := { t with cmd := c } :: r } := by
  simp [State.withNextCommand, h]

@[simp] theorem State.reset_pending : State.reset.pending = [] := rfl
@[simp] theorem State.reset_answers : State.reset.answers = [] := rfl

end Sys2Proof.Machine
end

