-- ==== Sys2Proof/Laws/Ops.lean ====
section
/-! SUPPORT. For each shared operation, one lemma that says everything it can do. -/

namespace Sys2Proof.Machine

/-- The answer for an outcome of the abstract layer: the spec lemma of `reply` is stated with it. -/
theorem reply_ok (s : State) (v : Value) : reply s (.ok v) = .next (s.answered (responseOf v)) := rfl

theorem reply_error (s : State) (e : ErrorKind) :
    reply s (.error e) = .next (s.answered (Response.failed (statusOf e))) := rfl

/-- `reply` always answers, and what it answers is one of two forms. -/
theorem reply_cases (s : State) (o : Except ErrorKind Value) :
    (∃ v, o = .ok v ∧ reply s o = .next (s.answered (responseOf v))) ∨
      ∃ e, o = .error e ∧ reply s o = .next (s.answered (Response.failed (statusOf e))) := by
  cases o with
  | ok v    => exact .inl ⟨v, rfl, rfl⟩
  | error e => exact .inr ⟨e, rfl, rfl⟩

theorem replyBits_eq {w : Nat} (s : State) (v : BitVec w) :
    replyBits s v = .next (s.answered (Response.int (v.setWidth 64))) := rfl

theorem replyWide_eq (s : State) (x : Wide64) : replyWide s x = .next (s.answered (Response.int (wideVal x))) := rfl

theorem replyOctets_eq (s : State) (bs : List Octet) : replyOctets s bs = .next (s.answered (Response.octets bs)) := rfl

theorem replyBool_eq (s : State) (b : Bool) : replyBool s b = .next (s.answered (Response.int (boolBits b))) := rfl

theorem replyTryBits_ok {w : Nat} (s : State) (v : BitVec w) :
    replyTryBits s (.ok v) = .next (s.answered (Response.int (v.setWidth 64))) := rfl

theorem replyTryBits_error {w : Nat} (s : State) (e : ErrorKind) :
    replyTryBits (w := w) s (.error e) = .next (s.answered (Response.failed (statusOf e))) := rfl

theorem replyTryWide_ok (s : State) (x : Wide64) :
    replyTryWide s (.ok x) = .next (s.answered (Response.int (wideVal x))) := rfl

theorem replyTryWide_error (s : State) (e : ErrorKind) :
    replyTryWide s (.error e) = .next (s.answered (Response.failed (statusOf e))) := rfl

theorem shiftChecked_of_neg {α : Type} {n : Int} (h : n < 0) (f : Nat → α) :
    shiftChecked n f = .error .invalidArgument := by simp [shiftChecked, h]

theorem shiftChecked_of_nonneg {α : Type} {n : Int} (h : 0 ≤ n) (f : Nat → α) : shiftChecked n f = .ok (f n.toNat) := by
  simp [shiftChecked, Int.not_lt.mpr h]

/-- Everything a defined MemRead can be. -/
theorem memRead_inv {m : Memory} {addr n : Nat} {cs : List Octet} (h : memRead m addr n = some cs) :
    addr + n ≤ m.length ∧ cs = (m.drop addr).take n ∧ cs.length = n := by
  simp only [memRead] at h
  split at h
  · cases h
  · rename_i hlt
    obtain rfl : (m.drop addr).take n = cs := by simpa using h
    refine ⟨by omega, rfl, ?_⟩
    simp only [List.length_take, List.length_drop]
    omega

/-- A parse fails exactly where its MemRead is not defined, and else gives the sum of the octets read. -/
theorem parseW_cases (w : Nat) (sum : List Octet → Nat) (m : Memory) (off : Nat) :
    (memRead m off (nb w) = none ∧ parseW w sum m off = .error .insufficientData) ∨
      ∃ cs, memRead m off (nb w) = some cs ∧ parseW w sum m off = .ok (BitVec.ofNat w (sum cs)) := by
  cases h : memRead m off (nb w) with
  | none    => exact .inl ⟨rfl, by simp [parseW, h]⟩
  | some cs => exact .inr ⟨cs, rfl, by simp [parseW, h]⟩

end Sys2Proof.Machine
end

