-- ==== Sys2Proof/Laws/Exec.lean ====
section
/-! SUPPORT. What running a command can do, said once: every command but TONUM.64 is one `reply` at the state it is given, and
TONUM.64 is one `reply`, at that state or at the state after a draw. -/

namespace Sys2Proof.Machine

theorem exec_eq_reply {i : Instr} (h : i ≠ .tonum64) (s : State) :
    ∃ o : Except ErrorKind Value, exec i s = reply s o := by
  have hb (w : Nat) (v : BitVec w) : ∃ o, replyBits s v = reply s o := ⟨_, rfl⟩
  have hw (x : Wide64) : ∃ o, replyWide s x = reply s o := ⟨_, rfl⟩
  have ho (bs : List Octet) : ∃ o, replyOctets s bs = reply s o := ⟨_, rfl⟩
  have hc (b : Bool) : ∃ o, replyBool s b = reply s o := ⟨_, rfl⟩
  have htb (w : Nat) (v : Except ErrorKind (BitVec w)) : ∃ o, replyTryBits s v = reply s o := ⟨_, rfl⟩
  have htw (x : Except ErrorKind Wide64) : ∃ o, replyTryWide s x = reply s o := ⟨_, rfl⟩
  cases i <;> first
    | exact absurd rfl h
    | exact hb _ _
    | exact hw _
    | exact ho _
    | exact hc _
    | exact htb _ _
    | exact htw _

theorem exec_tonum64_exact {s : State} (h : exceedsExact (wideA s) = false) :
    exec .tonum64 s = reply s (.ok (.int (numberOf (wideA s)))) := by
  simp [exec, execTonum64, w64ToNumber, h, replyBits, bitsValue]

theorem exec_tonum64_above {s : State} (h : exceedsExact (wideA s) = true) :
    exec .tonum64 s = reply s.drawn (.ok (.int (s.nextDraw s.inp.a))) := by
  simp [exec, execTonum64, w64ToNumber, h, replyBits, bitsValue]

/-- The three things a step can be: idle, the answer to an illegal byte, or the command the byte decodes to. -/
theorem step_cases (s : State) :
    (s.pending = [] ∧ step s = .next s) ∨
      ∃ t rest, s.pending = t :: rest ∧
        ((∃ e, decode t.cmd = .error e ∧ step s = .next ((s.accept t rest).failed .illegalCommand)) ∨
          ∃ i, decode t.cmd = .ok i ∧ step s = exec i (s.accept t rest)) := by
  cases hp : s.pending with
  | nil => exact .inl ⟨rfl, by simp [step, hp]⟩
  | cons t rest =>
    refine .inr ⟨t, rest, rfl, ?_⟩
    cases hd : decode t.cmd with
    | error e => exact .inl ⟨e, rfl, by simp [step, hp, hd, illegalCommand]⟩
    | ok i    => exact .inr ⟨i, rfl, by simp [step, hp, hd]⟩

/-- A run is a step and then the rest of the run. -/
theorem run_succ_of_step {s u : State} (k : Nat) (h : step s = .next u) :
    Host.Core.run Sys2Proof.core (k + 1) s = Host.Core.run Sys2Proof.core k u := by
  have h' : Sys2Proof.core.step s = .next u := h
  simp only [Host.Core.run, h']

end Sys2Proof.Machine
end

