-- ==== Sys2Proof/Laws/Memory.lean ====
section
/-! SUPPORT. The canonical form of the byte sequence: a sequence of octets is its own canonical form, so every memory has it,
whatever operation made it (20_memory.md R20 to R23). -/

namespace Sys2Proof.Machine

/-- The cells of a memory are listed at addresses 0, 1, ..., LEN - 1, in that order. -/
theorem memoryCells_addresses (m : Memory) : (memoryCells m).map Prod.fst = List.range m.length := by
  simp [memoryCells, List.map_fst_zip]

theorem Memory.wf_all (m : Memory) : Memory.wf m = true := by
  simp [Memory.wf, memoryCells_addresses]

/-- Memories with the same cells are the same memory. -/
theorem memoryCells_injective {m m' : Memory} (h : memoryCells m = memoryCells m') : m = m' := by
  have h₂ := congrArg (List.map Prod.snd) h
  simpa [memoryCells, List.map_snd_zip] using h₂

/-- An address is listed with an octet exactly when a read of it gives that octet. -/
theorem octetAt_isSome_iff (m : Memory) (addr : Nat) : (octetAt m addr).isSome = decide (addr < m.length) := by
  by_cases h : addr < m.length <;> simp [octetAt, h]

end Sys2Proof.Machine
end

