-- ==== Sys2Proof/Laws/PerInstr.lean ====
section
/-! SUPPORT. Statements made per instruction. -/

namespace Sys2Proof.Laws.CommandForm

/-- The command of the row is a legal pair of operation and width (30_encoding.md R41), and the pair names the row. -/
def Statement (i : Instr) : Prop := i.wf = true ∧ instrOfCommand i.command = some i

theorem mask16 : Statement .mask16 := ⟨rfl, rfl⟩
theorem and16 : Statement .and16 := ⟨rfl, rfl⟩
theorem or16 : Statement .or16 := ⟨rfl, rfl⟩
theorem xor16 : Statement .xor16 := ⟨rfl, rfl⟩
theorem not16 : Statement .not16 := ⟨rfl, rfl⟩
theorem lshift16 : Statement .lshift16 := ⟨rfl, rfl⟩
theorem rshift16 : Statement .rshift16 := ⟨rfl, rfl⟩
theorem arshift16 : Statement .arshift16 := ⟨rfl, rfl⟩
theorem rol16 : Statement .rol16 := ⟨rfl, rfl⟩
theorem ror16 : Statement .ror16 := ⟨rfl, rfl⟩
theorem add16 : Statement .add16 := ⟨rfl, rfl⟩
theorem tobe16 : Statement .tobe16 := ⟨rfl, rfl⟩
theorem tole16 : Statement .tole16 := ⟨rfl, rfl⟩
theorem frombe16 : Statement .frombe16 := ⟨rfl, rfl⟩
theorem fromle16 : Statement .fromle16 := ⟨rfl, rfl⟩
theorem mask32 : Statement .mask32 := ⟨rfl, rfl⟩
theorem and32 : Statement .and32 := ⟨rfl, rfl⟩
theorem or32 : Statement .or32 := ⟨rfl, rfl⟩
theorem xor32 : Statement .xor32 := ⟨rfl, rfl⟩
theorem not32 : Statement .not32 := ⟨rfl, rfl⟩
theorem lshift32 : Statement .lshift32 := ⟨rfl, rfl⟩
theorem rshift32 : Statement .rshift32 := ⟨rfl, rfl⟩
theorem arshift32 : Statement .arshift32 := ⟨rfl, rfl⟩
theorem rol32 : Statement .rol32 := ⟨rfl, rfl⟩
theorem ror32 : Statement .ror32 := ⟨rfl, rfl⟩
theorem add32 : Statement .add32 := ⟨rfl, rfl⟩
theorem tobe32 : Statement .tobe32 := ⟨rfl, rfl⟩
theorem tole32 : Statement .tole32 := ⟨rfl, rfl⟩
theorem frombe32 : Statement .frombe32 := ⟨rfl, rfl⟩
theorem fromle32 : Statement .fromle32 := ⟨rfl, rfl⟩
theorem mask64 : Statement .mask64 := ⟨rfl, rfl⟩
theorem and64 : Statement .and64 := ⟨rfl, rfl⟩
theorem or64 : Statement .or64 := ⟨rfl, rfl⟩
theorem xor64 : Statement .xor64 := ⟨rfl, rfl⟩
theorem not64 : Statement .not64 := ⟨rfl, rfl⟩
theorem lshift64 : Statement .lshift64 := ⟨rfl, rfl⟩
theorem rshift64 : Statement .rshift64 := ⟨rfl, rfl⟩
theorem arshift64 : Statement .arshift64 := ⟨rfl, rfl⟩
theorem rol64 : Statement .rol64 := ⟨rfl, rfl⟩
theorem ror64 : Statement .ror64 := ⟨rfl, rfl⟩
theorem add64 : Statement .add64 := ⟨rfl, rfl⟩
theorem tobe64 : Statement .tobe64 := ⟨rfl, rfl⟩
theorem tole64 : Statement .tole64 := ⟨rfl, rfl⟩
theorem frombe64 : Statement .frombe64 := ⟨rfl, rfl⟩
theorem fromle64 : Statement .fromle64 := ⟨rfl, rfl⟩
theorem eq64 : Statement .eq64 := ⟨rfl, rfl⟩
theorem iszero64 : Statement .iszero64 := ⟨rfl, rfl⟩
theorem tonum64 : Statement .tonum64 := ⟨rfl, rfl⟩
theorem tonums64 : Statement .tonums64 := ⟨rfl, rfl⟩
theorem fromnum64 : Statement .fromnum64 := ⟨rfl, rfl⟩

end Sys2Proof.Laws.CommandForm
end

