-- ==== Sys2Proof/Machine/ScriptText.lean ====
section
/-! DEFINITION. The textual form of a line of a host script: its tokens and its grammar (30_encoding.md R45, R46). What R45
leaves to a reader (which characters a name has, where blanks may stand) is log entry 14. -/

namespace Sys2Proof.Machine

/-- The tokens of a line. -/
inductive Token where
  | word (x : String)
  | num (v : Nat)
  | equals | dot | comma | minus | arrow
  | openBrace | closeBrace | openBracket | closeBracket
deriving DecidableEq, Repr

/-- The value of a digit, in base 16 or less. -/
def digitValue (c : Char) : Option Nat :=
  let k := c.toNat
  if 48 ≤ k ∧ k ≤ 57 then some (k - 48)
  else if 97 ≤ k ∧ k ≤ 102 then some (k - 87)
  else if 65 ≤ k ∧ k ≤ 70 then some (k - 55)
  else none

/-- Digits in a base, the most significant first. -/
def digitsValue (base acc : Nat) : List Char → Option Nat
  | []      => some acc
  | c :: cs =>
    match digitValue c with
    | some d => if d < base then digitsValue base (acc * base + d) cs else none
    | none   => none

/-- A run of letters, digits and underscores: a number where it starts with a digit (0x for hexadecimal), else a word. -/
def runToken : List Char → Option Token
  | []                    => none
  | '0' :: 'x' :: c :: cs => (digitsValue 16 0 (c :: cs)).map Token.num
  | c :: cs               => if c.isDigit then (digitsValue 10 0 (c :: cs)).map Token.num else some (.word (String.ofList (c :: cs)))

/-- The token of a single character. -/
def charToken (c : Char) : Option Token :=
  match c.toNat with
  | 0x3D => some .equals
  | 0x2E => some .dot
  | 0x2C => some .comma
  | 0x2D => some .minus
  | 0x7B => some .openBrace
  | 0x7D => some .closeBrace
  | 0x5B => some .openBracket
  | 0x5D => some .closeBracket
  | _    => none

/-- The tokens already read, with the run read so far (in reverse) put before them. -/
def endRun (run : List Char) (rest : Option (List Token)) : Option (List Token) :=
  if run.isEmpty then rest
  else
    match runToken run.reverse, rest with
    | some t, some ts => some (t :: ts)
    | _, _            => none

/-- The tokens of a line; `run` is the run of letters, digits and underscores being read, in reverse. -/
def tokens (run : List Char) : List Char → Option (List Token)
  | []                => endRun run (some [])
  | '-' :: '>' :: cs  => endRun run ((tokens [] cs).map (Token.arrow :: ·))
  | c :: cs =>
    if c.isAlphanum || c == '_' then tokens (c :: run) cs
    else if c == ' ' then endRun run (tokens [] cs)
    else
      match charToken c with
      | some t => endRun run ((tokens [] cs).map (t :: ·))
      | none   => none

/-- integer ::= [ "-" ] digits (R45). -/
def parseInt : List Token → Option (Int × List Token)
  | .minus :: .num v :: ts => some (-(v : Int), ts)
  | .num v :: ts           => some ((v : Int), ts)
  | _                      => none

/-- integer, then more integers after commas, then the closing bracket of a byte list (R45). `fuel` bounds the tokens. -/
def parseByteList (fuel : Nat) (ts : List Token) : Option (List Int × List Token) :=
  match fuel with
  | 0     => none
  | k + 1 =>
    match parseInt ts with
    | some (v, .comma :: rest) => (parseByteList k rest).map fun p => (v :: p.1, p.2)
    | some (v, .closeBracket :: rest) => some ([v], rest)
    | _ => none

/-- operand ::= integer | pair | bytes | name (R45). -/
def parseArg (fuel : Nat) : List Token → Option (Arg × List Token)
  | .word x :: ts => some (.name x, ts)
  | .openBracket :: .closeBracket :: ts => some (.bytes [], ts)
  | .openBracket :: ts => (parseByteList fuel ts).map fun p => (.bytes p.1, p.2)
  | .openBrace :: ts =>
    match parseInt ts with
    | some (h, .comma :: rest) =>
      match parseInt rest with
      | some (l, .closeBrace :: rest') => some (.pair h l, rest')
      | _ => none
    | _ => none
  | ts => (parseInt ts).map fun p => (.int p.1, p.2)

/-- operands ::= operand, then more operands after commas (R45). -/
def parseArgs (fuel : Nat) (ts : List Token) : Option (List Arg × List Token) :=
  match fuel with
  | 0     => none
  | k + 1 =>
    match parseArg k ts with
    | some (x, .comma :: rest) => (parseArgs k rest).map fun p => (x :: p.1, p.2)
    | some (x, rest)           => some ([x], rest)
    | none                     => none

/-- The twenty operations, in the order of R41. -/
def allOps : List Op :=
  [.mask, .and, .or, .xor, .not, .lshift, .rshift, .arshift, .rol, .ror, .add, .tobe, .tole, .frombe, .fromle, .eq, .iszero,
    .tonum, .tonums, .fromnum]

/-- The operation of a mnemonic (R45). -/
def opOfMnemonic (x : String) : Option Op := allOps.find? fun o => o.mnemonic == x

/-- The digits of a width, as the source's suffixed names write them (R46). -/
def widthSuffix : Width → String
  | .w16 => "16"
  | .w32 => "32"
  | .w64 => "64"

/-- The command a source name stands for where the width is understood: the bare name, or the name with that width's suffix
(R46). The source's bare to_number is the non-strict one. -/
def commandOfSourceName (x : String) (w : Width) : Option Command :=
  match allOps.find? fun o => o.sourceName == x || o.sourceName ++ widthSuffix w == x with
  | some o => if Command.wf ⟨o, w⟩ then some ⟨o, w⟩ else none
  | none   => none

/-- width ::= 16 | 32 | 64 (R45). -/
def widthOfNumber : Nat → Option Width
  | 16 => some .w16
  | 32 => some .w32
  | 64 => some .w64
  | _  => none

/-- status ::= the name of a STATUS (R45, R145). -/
def statusOfName (x : String) : Option Status :=
  if x == "OK" then some .ok
  else if x == "InvalidArgument" then some .invalidArgument
  else if x == "InsufficientData" then some .insufficientData
  else if x == "PrecisionExceeded" then some .precisionExceeded
  else if x == "IllegalCommand" then some .illegalCommand
  else none

/-- The end of a line: an expected status, OK where it is left out (R45). -/
def parseExpect : List Token → Option Status
  | []                => some .ok
  | [.arrow, .word x] => statusOfName x
  | _                 => none

/-- mnemonic "." width operands [ "->" status ] (R45). -/
def parseCommand (nm : Option String) : List Token → Option Line
  | .word m :: .dot :: .num w :: ts =>
    match opOfMnemonic m, widthOfNumber w, parseArgs (ts.length + 1) ts with
    | some op, some wd, some (args, rest) =>
      (parseExpect rest).map fun st => { bind := nm, command := ⟨op, wd⟩, args := args, expect := st }
    | _, _, _ => none
  | _ => none

/-- line ::= [ name "=" ] mnemonic "." width operands [ "->" status ] (R45). -/
def parseLine (text : String) : Option Line :=
  match tokens [] text.toList with
  | some (.word nm :: .equals :: ts) => parseCommand (some nm) ts
  | some ts                          => parseCommand none ts
  | none                             => none

end Sys2Proof.Machine
end

