-- ==== Sys2Proof/Tests/Slice0.lean ====
section
/-! SUPPORT. The model's own tests. Expected values are from spec/: the encodings of 30_encoding.md R39 to R41, the examples of
95_test_vectors.md section 1 (S8 to S16) and its vectors of section 2. Then one witness for each obligation that has
hypotheses. -/

namespace Sys2Proof.Tests

open Sys2Proof Sys2Proof.Machine

/-! ## Well-formedness: each check refuses an ill-formed term -/

theorem test_wf_refuses_eq_at_16 : Command.wf ⟨.eq, .w16⟩ = false := by decide
theorem test_wf_refuses_fromnum_at_32 : Command.wf ⟨.fromnum, .w32⟩ = false := by decide
theorem test_wf_accepts_eq_at_64 : Command.wf ⟨.eq, .w64⟩ = true := by decide

/-! ## Decoding: every word written out as Z, WSEL, OP (R39 to R41) -/

theorem test_decode_mask :
    decode 0b00000000#8 = .ok .mask16 ∧
      decode 0b00100000#8 = .ok .mask32 ∧
      decode 0b01000000#8 = .ok .mask64 := by decide
theorem test_decode_and :
    decode 0b00000001#8 = .ok .and16 ∧
      decode 0b00100001#8 = .ok .and32 ∧
      decode 0b01000001#8 = .ok .and64 := by decide
theorem test_decode_or :
    decode 0b00000010#8 = .ok .or16 ∧
      decode 0b00100010#8 = .ok .or32 ∧
      decode 0b01000010#8 = .ok .or64 := by decide
theorem test_decode_xor :
    decode 0b00000011#8 = .ok .xor16 ∧
      decode 0b00100011#8 = .ok .xor32 ∧
      decode 0b01000011#8 = .ok .xor64 := by decide
theorem test_decode_not :
    decode 0b00000100#8 = .ok .not16 ∧
      decode 0b00100100#8 = .ok .not32 ∧
      decode 0b01000100#8 = .ok .not64 := by decide
theorem test_decode_lshift :
    decode 0b00000101#8 = .ok .lshift16 ∧
      decode 0b00100101#8 = .ok .lshift32 ∧
      decode 0b01000101#8 = .ok .lshift64 := by decide
theorem test_decode_rshift :
    decode 0b00000110#8 = .ok .rshift16 ∧
      decode 0b00100110#8 = .ok .rshift32 ∧
      decode 0b01000110#8 = .ok .rshift64 := by decide
theorem test_decode_arshift :
    decode 0b00000111#8 = .ok .arshift16 ∧
      decode 0b00100111#8 = .ok .arshift32 ∧
      decode 0b01000111#8 = .ok .arshift64 := by decide
theorem test_decode_rol :
    decode 0b00001000#8 = .ok .rol16 ∧
      decode 0b00101000#8 = .ok .rol32 ∧
      decode 0b01001000#8 = .ok .rol64 := by decide
theorem test_decode_ror :
    decode 0b00001001#8 = .ok .ror16 ∧
      decode 0b00101001#8 = .ok .ror32 ∧
      decode 0b01001001#8 = .ok .ror64 := by decide
theorem test_decode_add :
    decode 0b00001010#8 = .ok .add16 ∧
      decode 0b00101010#8 = .ok .add32 ∧
      decode 0b01001010#8 = .ok .add64 := by decide
theorem test_decode_tobe :
    decode 0b00001011#8 = .ok .tobe16 ∧
      decode 0b00101011#8 = .ok .tobe32 ∧
      decode 0b01001011#8 = .ok .tobe64 := by decide
theorem test_decode_tole :
    decode 0b00001100#8 = .ok .tole16 ∧
      decode 0b00101100#8 = .ok .tole32 ∧
      decode 0b01001100#8 = .ok .tole64 := by decide
theorem test_decode_frombe :
    decode 0b00001101#8 = .ok .frombe16 ∧
      decode 0b00101101#8 = .ok .frombe32 ∧
      decode 0b01001101#8 = .ok .frombe64 := by decide
theorem test_decode_fromle :
    decode 0b00001110#8 = .ok .fromle16 ∧
      decode 0b00101110#8 = .ok .fromle32 ∧
      decode 0b01001110#8 = .ok .fromle64 := by decide
theorem test_decode_eq :
    decode 0b01010000#8 = .ok .eq64 := by decide
theorem test_decode_iszero :
    decode 0b01010001#8 = .ok .iszero64 := by decide
theorem test_decode_tonum :
    decode 0b01010010#8 = .ok .tonum64 := by decide
theorem test_decode_tonums :
    decode 0b01010011#8 = .ok .tonums64 := by decide
theorem test_decode_fromnum :
    decode 0b01010100#8 = .ok .fromnum64 := by decide

theorem test_decode_rejects_by_name :
    decode 0xA1#8 = .error .topBitSet ∧ decode 0x60#8 = .error .reservedWidth ∧ decode 0x0F#8 = .error .reservedOp ∧
      decode 0x55#8 = .error .reservedOp ∧ decode 0x30#8 = .error .only64 := by decide

theorem test_decodeTableWord : decodeTableWord 8 0x4A = some .add64 ∧ decodeTableWord 8 0x0F = none := by decide

/-! ## One transaction per command -/

/-- A transaction with the ports a test does not name at zero. -/
def tx (cmd : BitVec 8) (a : BitVec 64 := 0#64) (b : BitVec 64 := 0#64) (n : BitVec 32 := 0#32) (off : BitVec 32 := 0#32)
    (buf : Memory := []) : Transaction :=
  { cmd := cmd, a := a, b := b, n := n, off := off, buf := buf }

/-- The octets of section 2.6's parse rows. -/
def nine : Memory := [0x12#8, 0x34#8, 0x56#8, 0x78#8, 0x9A#8, 0xBC#8, 0xDE#8, 0xF0#8, 0x11#8]

theorem test_mask16 : answerAlone 0 (tx 0x00 0x12345) = some (.int 0x2345) := by decide
theorem test_mask32 : answerAlone 0 (tx 0x20 0xFFFFFFFFFFFFFFFF) = some (.int 0xFFFFFFFF) := by decide
theorem test_mask64 : answerAlone 0 (tx 0x40 0x123456789ABCDEF0) = some (.int 0x123456789ABCDEF0) := by decide
theorem test_and16 : answerAlone 0 (tx 0x01 0x123456789ABCDEF0 0xFFFF0000FFFF0000) = some (.int 0x0) := by decide
theorem test_and32 : answerAlone 0 (tx 0x21 0x123456789ABCDEF0 0xFFFF0000FFFF0000) = some (.int 0x9ABC0000) := by decide
theorem test_and64 : answerAlone 0 (tx 0x41 0x123456789ABCDEF0 0xFFFF0000FFFF0000) = some (.int 0x123400009ABC0000) := by decide
theorem test_or16 : answerAlone 0 (tx 0x02 0x123456789ABCDEF0 0xFFFF0000FFFF0000) = some (.int 0xDEF0) := by decide
theorem test_or32 : answerAlone 0 (tx 0x22 0x123456789ABCDEF0 0xFFFF0000FFFF0000) = some (.int 0xFFFFDEF0) := by decide
theorem test_or64 : answerAlone 0 (tx 0x42 0x123456789ABCDEF0 0xFFFF0000FFFF0000) = some (.int 0xFFFF5678FFFFDEF0) := by decide
theorem test_xor16 : answerAlone 0 (tx 0x03 0x123456789ABCDEF0 0xFFFF0000FFFF0000) = some (.int 0xDEF0) := by decide
theorem test_xor32 : answerAlone 0 (tx 0x23 0x123456789ABCDEF0 0xFFFF0000FFFF0000) = some (.int 0x6543DEF0) := by decide
theorem test_xor64 : answerAlone 0 (tx 0x43 0x123456789ABCDEF0 0xFFFF0000FFFF0000) = some (.int 0xEDCB56786543DEF0) := by decide
theorem test_not16 : answerAlone 0 (tx 0x04 0x123456789ABCDEF0 0xFFFF0000FFFF0000) = some (.int 0x210F) := by decide
theorem test_not32 : answerAlone 0 (tx 0x24 0x123456789ABCDEF0 0xFFFF0000FFFF0000) = some (.int 0x6543210F) := by decide
theorem test_not64 : answerAlone 0 (tx 0x44 0x123456789ABCDEF0 0xFFFF0000FFFF0000) = some (.int 0xEDCBA9876543210F) := by decide
theorem test_lshift16 : answerAlone 0 (tx 0x05 0x8001 (n := 1)) = some (.int 0x2) := by decide
theorem test_lshift32 : answerAlone 0 (tx 0x25 0x12345678 (n := 4)) = some (.int 0x23456780) := by decide
theorem test_lshift64 : answerAlone 0 (tx 0x45 0x123456789ABCDEF0 (n := 36)) = some (.int 0xABCDEF0000000000) := by decide
theorem test_rshift16 : answerAlone 0 (tx 0x06 0x12345 (n := 4)) = some (.int 0x234) := by decide
theorem test_rshift32 : answerAlone 0 (tx 0x26 0x80000000 (n := 31)) = some (.int 0x1) := by decide
theorem test_rshift64 : answerAlone 0 (tx 0x46 0x123456789ABCDEF0 (n := 4)) = some (.int 0x123456789ABCDEF) := by decide
theorem test_arshift16 : answerAlone 0 (tx 0x07 0x8001 (n := 16)) = some (.int 0xFFFF) := by decide
theorem test_arshift32 : answerAlone 0 (tx 0x27 0x80000000 (n := 1)) = some (.int 0xC0000000) := by decide
theorem test_arshift64 : answerAlone 0 (tx 0x47 0x8000000000000000 (n := 63)) = some (.int 0xFFFFFFFFFFFFFFFF) := by decide
theorem test_lshift32_negative : answerAlone 0 (tx 0x25 1 (n := 0xFFFFFFFF)) = some (.failed .invalidArgument) := by decide
theorem test_arshift64_negative : answerAlone 0 (tx 0x47 0x8000000000000000 (n := 0xFFFFFFC0)) = some (.failed .invalidArgument) := by decide
theorem test_rol16 : answerAlone 0 (tx 0x08 0x18000 (n := 1)) = some (.int 0x1) := by decide
theorem test_rol32 : answerAlone 0 (tx 0x28 0x12345678 (n := 8)) = some (.int 0x34567812) := by decide
theorem test_rol64 : answerAlone 0 (tx 0x48 0x123456789ABCDEF0 (n := 16)) = some (.int 0x56789ABCDEF01234) := by decide
theorem test_rol64_negative : answerAlone 0 (tx 0x48 0x123456789ABCDEF0 (n := 0xFFFFFFF0)) = some (.int 0xDEF0123456789ABC) := by decide
theorem test_ror16 : answerAlone 0 (tx 0x09 0x8001 (n := 0xFFFFFFFC)) = some (.int 0x18) := by decide
theorem test_ror32 : answerAlone 0 (tx 0x29 0x12345678 (n := 8)) = some (.int 0x78123456) := by decide
theorem test_ror64 : answerAlone 0 (tx 0x49 0x123456789ABCDEF0 (n := 48)) = some (.int 0x56789ABCDEF01234) := by decide
theorem test_add16 : answerAlone 0 (tx 0x0A 0x1234 0xFFFFFFFFFFFFFFFF) = some (.int 0x1233) := by decide
theorem test_add32 : answerAlone 0 (tx 0x2A 0xFFFFFFFF 1) = some (.int 0x0) := by decide
theorem test_add64 : answerAlone 0 (tx 0x4A 0xFFFFFFFF 1) = some (.int 0x100000000) := by decide
theorem test_tobe16 : answerAlone 0 (tx 0x0B 0x12345 (off := 99)) = some (.octets [0x23#8, 0x45#8]) := by decide
theorem test_tobe32 : answerAlone 0 (tx 0x2B 0x12345678) = some (.octets [0x12#8, 0x34#8, 0x56#8, 0x78#8]) := by decide
theorem test_tobe64 : answerAlone 0 (tx 0x4B 0x123456789ABCDEF0) = some (.octets [0x12#8, 0x34#8, 0x56#8, 0x78#8, 0x9A#8, 0xBC#8, 0xDE#8, 0xF0#8]) := by decide
theorem test_tole16 : answerAlone 0 (tx 0x0C 0x12345) = some (.octets [0x45#8, 0x23#8]) := by decide
theorem test_tole32 : answerAlone 0 (tx 0x2C 0x12345678) = some (.octets [0x78#8, 0x56#8, 0x34#8, 0x12#8]) := by decide
theorem test_tole64 : answerAlone 0 (tx 0x4C 0x123456789ABCDEF0) = some (.octets [0xF0#8, 0xDE#8, 0xBC#8, 0x9A#8, 0x78#8, 0x56#8, 0x34#8, 0x12#8]) := by decide
theorem test_frombe16 : answerAlone 0 (tx 0x0D (off := 7) (buf := nine)) = some (.int 0xF011) := by decide
theorem test_frombe32 : answerAlone 0 (tx 0x2D (off := 1) (buf := nine)) = some (.int 0x3456789A) := by decide
theorem test_frombe64 : answerAlone 0 (tx 0x4D (off := 1) (buf := nine)) = some (.int 0x3456789ABCDEF011) := by decide
theorem test_fromle16 : answerAlone 0 (tx 0x0E (off := 7) (buf := nine)) = some (.int 0x11F0) := by decide
theorem test_fromle32 : answerAlone 0 (tx 0x2E (off := 1) (buf := nine)) = some (.int 0x9A785634) := by decide
theorem test_fromle64 : answerAlone 0 (tx 0x4E (off := 1) (buf := nine)) = some (.int 0x11F0DEBC9A785634) := by decide
theorem test_frombe32_short : answerAlone 0 (tx 0x2D (off := 6) (buf := nine)) = some (.failed .insufficientData) := by decide
theorem test_fromle64_short : answerAlone 0 (tx 0x4E (off := 2) (buf := nine)) = some (.failed .insufficientData) := by decide
theorem test_eq64 : answerAlone 0 (tx 0x50 0x100000000 0x100000001) = some (.int 0x0) := by decide
theorem test_iszero64 : answerAlone 0 (tx 0x51 0x100000000) = some (.int 0x0) := by decide
theorem test_iszero64_zero : answerAlone 0 (tx 0x51 0) = some (.int 0x1) := by decide
theorem test_tonum64 : answerAlone 0 (tx 0x52 0x001FFFFFFFFFFFFF) = some (.int 0x1FFFFFFFFFFFFF) := by decide
theorem test_tonums64 : answerAlone 0 (tx 0x53 0x001FFFFFFFFFFFFF) = some (.int 0x1FFFFFFFFFFFFF) := by decide
theorem test_tonums64_exceeds : answerAlone 0 (tx 0x53 0x0020000000000000) = some (.failed .precisionExceeded) := by decide
theorem test_fromnum64 : answerAlone 0 (tx 0x54 0x100000002) = some (.int 0x100000002) := by decide
theorem test_illegal : answerAlone 0 (tx 0x30 1 2 3) = some (.failed .illegalCommand) := by decide

theorem test_tonum64_above_the_exact_range_is_ok :
    (answerAlone 0 (tx 0x52 0x0020000000000000)).map Response.status = some .ok := by decide

theorem test_withFetchWord_runs_first :
    step (State.reset.withFetchWord 8 0x24) =
      .next { State.reset with inp := tx 0x24, answers := [.int 0xFFFFFFFF] } := rfl

/-! ## Host scripts (R45) -/

theorem test_parseLine_binds :
    parseLine "s = ADD.32 al, -1" = some ⟨some "s", ⟨.add, .w32⟩, [.name "al", .int (-1)], .ok⟩ := by decide

theorem test_parseLine_bytes_and_status :
    parseLine "FROMBE.32 [0x12, 0, 255, 4], 1 -> InsufficientData" =
      some ⟨none, ⟨.frombe, .w32⟩, [.bytes [0x12, 0, 255, 4], .int 1], .insufficientData⟩ := by decide

theorem test_source_names :
    commandOfSourceName "arshift32" .w32 = some ⟨.arshift, .w32⟩ ∧ commandOfSourceName "rol" .w64 = some ⟨.rol, .w64⟩ ∧
      commandOfSourceName "eq" .w32 = none := by decide

/-- Lines 1 and 2 of program P2 of section 3. -/
theorem test_runScript_byte_swap :
    (runScript ⟨[], State.reset, true⟩ [⟨some "bs", ⟨.tobe, .w32⟩, [.int 0x12345678], .ok⟩,
      ⟨some "y", ⟨.fromle, .w32⟩, [.name "bs"], .ok⟩]).toOption.map (fun h => (lookupName h.names "y", h.met)) =
      some (.ok (.num 0x78563412), true) := by decide

/-- A name bound by a transaction whose STATUS was not OK has no value. -/
theorem test_runScript_failed_name :
    runScript ⟨[], State.reset, true⟩ [⟨some "v", ⟨.lshift, .w32⟩, [.int 1, .int (-1)], .invalidArgument⟩,
      ⟨none, ⟨.mask, .w32⟩, [.name "v"], .ok⟩] = .error .noValue := by decide

/-! ## Witnesses: concrete states and operands that meet the hypotheses of the obligations -/

/-- A machine with `t` on its ports. -/
def on (t : Transaction) : State := { State.reset with inp := t }

/-- A machine with the transactions `ts` still to be presented. -/
def queued (ts : List Transaction) : State := { State.reset with pending := ts }

theorem witness_IllegalBytesAnswerIllegalCommand :
    (queued [tx 0x80]).pending = tx 0x80 :: [] ∧ reservedByte 0x80#8 ∧ reservedByte 0x60#8 ∧
      reservedByte 0x0F#8 ∧ reservedByte 0x15#8 ∧ reservedByte 0x14#8 ∧
      ¬ reservedByte 0x54#8 := by decide

theorem witness_StepRunsDecodedCommand :
    (queued [tx 0x21]).pending = tx 0x21 :: [] ∧ decode (tx 0x21).cmd = .ok .and32 := by decide

theorem witness_StepIdlesWithNothingPending : State.reset.pending = [] := by decide

theorem witness_RunGivesOneAnswerPerTransaction : 2 ≤ (queued [tx 0x21, tx 0x80]).pending.length := by decide

theorem witness_AnswersOfARunAreStateless :
    (queued [tx 0x52 0x0020000000000000, tx 0x21 5]).pending[0]? = some (tx 0x52 0x0020000000000000) ∧
      (tx 0x52 0x0020000000000000).determined = false ∧
      (queued [tx 0x52 0x0020000000000000, tx 0x52 0x001FFFFFFFFFFFFF]).pending[1]? = some (tx 0x52 0x001FFFFFFFFFFFFF) ∧
      (tx 0x52 0x001FFFFFFFFFFFFF).determined = true := by decide

theorem witness_StepKeepsAnswersLegal :
    State.answersLegal (queued [tx 0x20]) ∧
      step (queued [tx 0x20]) = .next { on (tx 0x20) with answers := [.int 0] } := ⟨by simp [State.answersLegal, queued], rfl⟩

theorem witness_CommandsIgnoreUnreadPorts :
    agreeOn Instr.lshift16.reads (tx 0x05 1 2 3 4 [5]) (tx 0x05 1 9 3 8 []) ∧
      (on (tx 0x05 1 2 3 4 [5])).draws = (on (tx 0x05 1 9 3 8 [])).draws := by
  refine ⟨?_, rfl⟩
  intro p hp
  fin_cases hp <;> rfl

theorem witness_AnswersDependOnPortsAlone :
    agreeOn Instr.tonum64.reads (tx 0x52 7) (tx 0x52 7 1) ∧ (tx 0x52 7).a.extractLsb' 53 11 = 0#11 := by
  refine ⟨?_, by decide⟩
  intro p hp
  fin_cases hp
  rfl

theorem witness_DecodeEncodeAgree :
    decode 0x21#8 = .ok .and32 ∧ encode .fromnum64 = encode .fromnum64 ∧ ∀ i : Instr, 0x0F#8 ≠ encode i := by
  refine ⟨by decide, rfl, ?_⟩
  intro i
  cases i <;> decide

theorem witness_LshiftCommandsShiftLeft :
    0 ≤ (on (tx 0x05 1 0 0)).inp.n.toInt ∧ 0 ≤ (on (tx 0x05 1 0 0x7FFFFFFF)).inp.n.toInt ∧
      (on (tx 0x05 1 0 0xFFFFFFFF)).inp.n.toInt < 0 ∧ (on (tx 0x05 1 0 0x80000000)).inp.n.toInt < 0 ∧
      (0 : Int) ≤ 0 ∧ (-1 : Int) < 0 ∧ 15 < Width.w16.bits := by decide

theorem witness_RshiftCommandsShiftRight :
    0 ≤ (on (tx 0x06 1 0 0)).inp.n.toInt ∧ 0 ≤ (on (tx 0x06 1 0 0x7FFFFFFF)).inp.n.toInt ∧
      (on (tx 0x06 1 0 0xFFFFFFFF)).inp.n.toInt < 0 ∧ (on (tx 0x06 1 0 0x80000000)).inp.n.toInt < 0 ∧
      (0 : Int) ≤ 0 ∧ (-1 : Int) < 0 ∧ 15 < Width.w16.bits := by decide

theorem witness_ArshiftCommandsFillWithTheSign :
    0 ≤ (on (tx 0x07 1 0 0)).inp.n.toInt ∧ 0 ≤ (on (tx 0x07 1 0 0x7FFFFFFF)).inp.n.toInt ∧
      (on (tx 0x07 1 0 0xFFFFFFFF)).inp.n.toInt < 0 ∧ (on (tx 0x07 1 0 0x80000000)).inp.n.toInt < 0 ∧
      (0 : Int) ≤ 0 ∧ (-1 : Int) < 0 ∧ 15 < Width.w16.bits := by decide

theorem witness_FrombeCommandsReadMostSignificantFirst :
    (on (tx 0x0D (off := 7) (buf := nine))).inp.off.toNat + 2 ≤ (on (tx 0x0D (off := 7) (buf := nine))).inp.buf.length ∧
      (on (tx 0x2D (off := 5) (buf := nine))).inp.off.toNat + 4 ≤ (on (tx 0x2D (off := 5) (buf := nine))).inp.buf.length ∧
      (on (tx 0x4D (off := 1) (buf := nine))).inp.off.toNat + 8 ≤ (on (tx 0x4D (off := 1) (buf := nine))).inp.buf.length ∧
      (on (tx 0x0D (off := 8) (buf := nine))).inp.buf.length < (on (tx 0x0D (off := 8) (buf := nine))).inp.off.toNat + 2 ∧
      (on (tx 0x2D (off := 6) (buf := nine))).inp.buf.length < (on (tx 0x2D (off := 6) (buf := nine))).inp.off.toNat + 4 ∧
      (on (tx 0x4D (off := 2) (buf := nine))).inp.buf.length < (on (tx 0x4D (off := 2) (buf := nine))).inp.off.toNat + 8 ∧
      ((nine.length : Int) - (8 : Int) < (nb Width.w16.bits : Int)) ∧ ¬ ((nine.length : Int) - (7 : Int) < (nb Width.w16.bits : Int)) := by
  decide

theorem witness_FromleCommandsReadLeastSignificantFirst :
    (on (tx 0x0E (off := 7) (buf := nine))).inp.off.toNat + 2 ≤ (on (tx 0x0E (off := 7) (buf := nine))).inp.buf.length ∧
      (on (tx 0x2E (off := 5) (buf := nine))).inp.off.toNat + 4 ≤ (on (tx 0x2E (off := 5) (buf := nine))).inp.buf.length ∧
      (on (tx 0x4E (off := 1) (buf := nine))).inp.off.toNat + 8 ≤ (on (tx 0x4E (off := 1) (buf := nine))).inp.buf.length ∧
      (on (tx 0x0E (off := 8) (buf := nine))).inp.buf.length < (on (tx 0x0E (off := 8) (buf := nine))).inp.off.toNat + 2 ∧
      (on (tx 0x2E (off := 6) (buf := nine))).inp.buf.length < (on (tx 0x2E (off := 6) (buf := nine))).inp.off.toNat + 4 ∧
      (on (tx 0x4E (off := 2) (buf := nine))).inp.buf.length < (on (tx 0x4E (off := 2) (buf := nine))).inp.off.toNat + 8 ∧
      ((nine.length : Int) - (8 : Int) < (nb Width.w16.bits : Int)) ∧ ¬ ((nine.length : Int) - (7 : Int) < (nb Width.w16.bits : Int)) := by
  decide

theorem witness_EqCommandComparesAllBits :
    (on (tx 0x50 1 1)).inp.a = (on (tx 0x50 1 1)).inp.b ∧ (on (tx 0x50 0x100000000 0)).inp.a ≠ (on (tx 0x50 0x100000000 0)).inp.b := by
  decide

theorem witness_IszeroCommandTestsAllBits : (on (tx 0x51)).inp.a = 0#64 ∧ (on (tx 0x51 0x100000000)).inp.a ≠ 0#64 := by decide

theorem witness_TonumCommandIsExactUpToTheThreshold :
    (on (tx 0x52 0x001FFFFFFFFFFFFF)).inp.a.extractLsb' 53 11 = 0#11 := by decide

theorem witness_TonumCommandDrawsAboveTheThreshold :
    (on (tx 0x52 0x0020000000000000)).inp.a.extractLsb' 53 11 ≠ 0#11 := by decide

theorem witness_TonumsCommandFailsFromTwoToTheFiftyThree :
    (on (tx 0x53 0x001FFFFFFFFFFFFF)).inp.a.extractLsb' 53 11 = 0#11 ∧
      (on (tx 0x53 0x0020000000000000)).inp.a.extractLsb' 53 11 ≠ 0#11 ∧
      0x001FFFFF < (⟨0x00200000#32, 0#32⟩ : Wide64).high.toNat ∧
      (⟨0x001FFFFF#32, 0xFFFFFFFF#32⟩ : Wide64).high.toNat ≤ 0x001FFFFF := by decide

theorem witness_NumberConversionLaws :
    (⟨0x001FFFFF#32, 0xFFFFFFFF#32⟩ : Wide64).high.toNat ≤ 0x001FFFFF ∧ (0x001FFFFFFFFFFFFF#64).toNat ≤ 2 ^ 53 - 1 := by decide

theorem witness_RolCommandsRotateLeft : 0 < Width.w16.bits ∧ 63 < Width.w64.bits := by decide

theorem witness_RorCommandsRotateRight : 0 < Width.w16.bits ∧ 63 < Width.w64.bits := by decide

theorem witness_TobeCommandsMostSignificantFirst : 0 < nb 16 ∧ 7 < nb 64 := by decide

theorem witness_ToleCommandsLeastSignificantFirst : 0 < nb 16 ∧ 7 < nb 64 := by decide

theorem witness_CodecRoundTrip :
    (nine.take 2).length = nb Width.w16.bits ∧ (nine.take 4).length = nb Width.w32.bits ∧ nine.tail.length = nb Width.w64.bits := by
  decide

theorem witness_ShiftLaws :
    Width.w16.bits ≤ 16 ∧ 16 ≤ Width.w16.bits ∧ (maskW Width.w16.bits 0x7FFF).getLsbD (Width.w16.bits - 1) = false ∧
      (maskW Width.w16.bits 0x8001).getLsbD (Width.w16.bits - 1) = true := by decide

theorem witness_MaskLaws : 16 ≤ 64 ∧ 64 ≤ 64 := by decide

theorem witness_PortReadingsGiveTheSameMask : 0 ≤ 64 ∧ 64 ≤ 64 := by decide

theorem witness_AmountPortReadings :
    Instr.arshift64.op = .arshift ∧ (on (tx 0x47 1 0 0x80000000)).inp.n.getLsbD 31 = true ∧
      (on (tx 0x47 1 0 0x0F)).inp.n.getLsbD 31 = false ∧ (on (tx 0x05 1 0 0x10)).inp.n.getLsbD 31 = false ∧
      (on (tx 0x05 1 0 0x10)).inp.n.extractLsb' 4 27 ≠ 0#27 ∧ (on (tx 0x25 1 0 0x20)).inp.n.extractLsb' 5 26 ≠ 0#26 ∧
      (on (tx 0x45 1 0 0x40)).inp.n.extractLsb' 6 25 ≠ 0#25 ∧ (on (tx 0x45 1 0 0x7FFFFFFF)).inp.n.getLsbD 31 = false ∧
      (on (tx 0x45 1 0 0x7FFFFFFF)).inp.n.extractLsb' 6 25 ≠ 0#25 := by decide

theorem witness_EveryGenericDefinitionGivesTheAnswer :
    genericOutcome Instr.add64.width.bits (on (tx 0x4A 0xFFFFFFFF 1)) Instr.add64.op = some (.ok (.int 0x100000000)) ∧
      genericOutcome Instr.rshift64.width.bits (on (tx 0x46 1 0 0xFFFFFFFF)) Instr.rshift64.op =
        some (.error .invalidArgument) := by decide

theorem witness_MemReadIsDefinedInsideTheSequence :
    memRead nine 7 2 = some [0xF0#8, 0x11#8] ∧ memRead nine 9 0 = some [] ∧ memRead nine 8 2 = none ∧ 1 < 2 := by decide

theorem witness_StatusCodes : statusCode .illegalCommand = statusCode .illegalCommand := by decide

theorem witness_ScriptNameBoundOnlyOnOk :
    (runLine ⟨[], State.reset, true⟩ ⟨some "v", ⟨.mask, .w16⟩, [.int (-1)], .ok⟩).toOption.map (fun h => h.unit.answers) =
        some [.int 0xFFFF] ∧
      (runLine ⟨[], State.reset, true⟩ ⟨some "v", ⟨.tobe, .w16⟩, [.int (-1)], .ok⟩).toOption.map (fun h => h.unit.answers) =
        some [.octets [0xFF#8, 0xFF#8]] ∧
      (runLine ⟨[], State.reset, true⟩ ⟨some "v", ⟨.lshift, .w16⟩, [.int 1, .int (-1)], .ok⟩).toOption.map
        (fun h => h.unit.answers) = some [.failed .invalidArgument] := by decide

end Sys2Proof.Tests
end

/-! # The state: family 10_state.md (O7, O10, O13, O49) -/

section

namespace Sys2Proof.Machine

/-! ## The 64-bit value and its pair of halves (R11, R33) -/

theorem wideVal_toNat (x : Wide64) : (wideVal x).toNat = x.high.toNat * 2 ^ 32 + x.low.toNat := by
  rw [wideVal, BitVec.toNat_append, ← Nat.shiftLeft_add_eq_or_of_lt x.low.isLt, Nat.shiftLeft_eq]

theorem widePair_high_toNat (v : BitVec 64) : (widePair v).high.toNat = v.toNat / 2 ^ 32 := by
  have hv : v.toNat < 2 ^ 64 := v.isLt
  simp only [widePair, BitVec.extractLsb'_toNat, Nat.shiftRight_eq_div_pow]
  omega

theorem widePair_low_toNat (v : BitVec 64) : (widePair v).low.toNat = v.toNat % 2 ^ 32 := by
  simp only [widePair, BitVec.extractLsb'_toNat, Nat.shiftRight_zero]

@[simp] theorem widePair_wideVal (x : Wide64) : widePair (wideVal x) = x := by
  simp only [widePair, wideVal, BitVec.extractLsb'_append_eq_left, BitVec.extractLsb'_append_eq_right]

@[simp] theorem wideVal_widePair (v : BitVec 64) : wideVal (widePair v) = v := by
  apply BitVec.eq_of_toNat_eq
  rw [wideVal_toNat, widePair_high_toNat, widePair_low_toNat]
  exact Nat.div_add_mod' v.toNat (2 ^ 32)

/-- The test of TONUM on the high half alone is the test of A[63:53] (R133, 90_conflicts.md C6). -/
theorem exceedsExact_widePair_iff (v : BitVec 64) : exceedsExact (widePair v) = true ↔ v.extractLsb' 53 11 ≠ 0#11 := by
  have hv : v.toNat < 2 ^ 64 := v.isLt
  rw [exceedsExact, decide_eq_true_iff, widePair_high_toNat, ne_eq, ← BitVec.toNat_inj, BitVec.extractLsb'_toNat,
    Nat.shiftRight_eq_div_pow, BitVec.toNat_ofNat]
  omega

/-- Settles O49: the value is high * 2^32 + low, and cutting it at bit 32 gives the halves back. -/
theorem widePairAndValueAreInverse : Obligations.WidePairAndValueAreInverse :=
  ⟨fun x => ⟨wideVal_toNat x, widePair_wideVal x⟩,
    fun v => ⟨widePair_high_toNat v, widePair_low_toNat v, wideVal_widePair v⟩⟩

/-! ## What an answer depends on (R16, R38, R44) -/

theorem agreeOn_refl (ps : List InPort) (t : Transaction) : agreeOn ps t t := by
  intro p _
  cases p <;> rfl

/-- One outcome puts the same answer on the output ports of any two states. -/
theorem same_answer_of_reply (s u : State) (o : Except ErrorKind Value) :
    ∃ x : Response, reply s o = .next (s.answered x) ∧ reply u o = .next (u.answered x) := by
  cases o with
  | ok v    => exact ⟨responseOf v, reply_ok s v, reply_ok u v⟩
  | error e => exact ⟨Response.failed (statusOf e), reply_error s e, reply_error u e⟩

/-- Every command but TONUM.64 takes its answer from the ports its format reads: states that agree there get the same one.
The cases are the formats of R44, and in each the commands that cannot fail stand before those that can. -/
theorem exec_same_answer_of_agreeOn {i : Instr} (hi : i ≠ .tonum64) {s u : State} (h : agreeOn i.reads s.inp u.inp) :
    ∃ x : Response, exec i s = .next (s.answered x) ∧ exec i u = .next (u.answered x) := by
  obtain ⟨⟨_, a, b, n, off, buf⟩, _, _, _⟩ := s
  obtain ⟨⟨_, a', b', n', off', buf'⟩, _, _, _⟩ := u
  cases i with
  | tonum64 => exact absurd rfl hi
  | mask16 | mask32 | mask64 | not16 | not32 | not64 | iszero64 | fromnum64
  | tobe16 | tobe32 | tobe64 | tole16 | tole32 | tole64 =>
    obtain rfl : a = a' := h .a (by decide)
    exact ⟨_, rfl, rfl⟩
  | tonums64 =>
    obtain rfl : a = a' := h .a (by decide)
    exact same_answer_of_reply _ _ _
  | and16 | and32 | and64 | or16 | or32 | or64 | xor16 | xor32 | xor64 | add16 | add32 | add64 | eq64 =>
    obtain rfl : a = a' := h .a (by decide)
    obtain rfl : b = b' := h .b (by decide)
    exact ⟨_, rfl, rfl⟩
  | rol16 | rol32 | rol64 | ror16 | ror32 | ror64 =>
    obtain rfl : a = a' := h .a (by decide)
    obtain rfl : n = n' := h .n (by decide)
    exact ⟨_, rfl, rfl⟩
  | lshift16 | lshift32 | lshift64 | rshift16 | rshift32 | rshift64 | arshift16 | arshift32 | arshift64 =>
    obtain rfl : a = a' := h .a (by decide)
    obtain rfl : n = n' := h .n (by decide)
    exact same_answer_of_reply _ _ _
  | frombe16 | frombe32 | frombe64 | fromle16 | fromle32 | fromle64 =>
    obtain rfl : buf = buf' := h .buf (by decide)
    obtain rfl : off = off' := h .off (by decide)
    exact same_answer_of_reply _ _ _

theorem exec_tonum64_of_exact {s : State} (h : s.inp.a.extractLsb' 53 11 = 0#11) :
    exec .tonum64 s = .next (s.answered (.int (numberOf (widePair s.inp.a)))) := by
  refine exec_tonum64_exact (Bool.eq_false_iff.mpr fun hex => ?_)
  exact (exceedsExact_widePair_iff s.inp.a).mp hex h

theorem exec_tonum64_of_above {s : State} (h : s.inp.a.extractLsb' 53 11 ≠ 0#11) :
    exec .tonum64 s = .next (s.drawn.answered (.int (s.nextDraw s.inp.a))) :=
  exec_tonum64_above ((exceedsExact_widePair_iff s.inp.a).mpr h)

/-- Settles O13: for TONUM.64 the two states agree on A, below the threshold its only input; every other command takes its
answer from the ports it reads. -/
theorem answersDependOnPortsAlone : Obligations.AnswersDependOnPortsAlone := by
  intro i s u hag hexact
  by_cases hi : i = .tonum64
  · subst hi
    have ha : s.inp.a = u.inp.a := hag .a (by decide)
    have hs := exec_tonum64_of_exact (hexact rfl)
    have hu := exec_tonum64_of_exact (ha ▸ hexact rfl)
    exact ⟨_, hs, ha ▸ hu⟩
  · exact exec_same_answer_of_agreeOn hi hag

/-! ## The frame of a command (R12, R14, R23) -/

/-- Settles O10: above the threshold TONUM.64 answers at the state after a draw; every other command answers as O13 says of
two equal states. -/
theorem frameOfEveryCommand : Obligations.FrameOfEveryCommand := by
  intro i s
  by_cases hdraw : i = .tonum64 ∧ s.inp.a.extractLsb' 53 11 ≠ 0#11
  · obtain ⟨rfl, ha⟩ := hdraw
    exact ⟨_, by rw [exec_tonum64_of_above ha, if_pos ⟨rfl, ha⟩]; rfl⟩
  · have hexact : i = .tonum64 → s.inp.a.extractLsb' 53 11 = 0#11 := fun hi => not_not.mp fun ha => hdraw ⟨hi, ha⟩
    obtain ⟨x, hx, _⟩ := answersDependOnPortsAlone i s s (agreeOn_refl _ _) hexact
    exact ⟨x, by rw [hx, if_neg hdraw]; rfl⟩

/-! ## The answers of a run (R16, R27, R167) -/

theorem decode_eq_tonum64_iff : ∀ c : BitVec 8, decode c = .ok .tonum64 ↔ c = 0x52#8 := by decide

/-- The spec leaves an answer open exactly for TONUM.64 with A[63:53] not 0 (R133). -/
theorem determined_eq_false_iff (t : Transaction) :
    t.determined = false ↔ decode t.cmd = .ok .tonum64 ∧ t.a.extractLsb' 53 11 ≠ 0#11 := by
  simp only [Transaction.determined, decode_eq_tonum64_iff, Bool.not_eq_false', Bool.and_eq_true, decide_eq_true_iff]

/-- What the spec allows as the answer to a transaction of a run: the one it gets when presented alone after reset, or, for a
TONUM above 2^53 - 1, OK with any R. -/
def Transaction.allows (t : Transaction) (x : Response) : Prop :=
  (t.determined = true → answerAlone 0 t = some x) ∧ (t.determined = false → ∃ v : BitVec 64, x = ⟨.ok, v, []⟩)

theorem allows_of_determined {t : Transaction} {x : Response} (ht : t.determined = true) (h : answerAlone 0 t = some x) :
    t.allows x := ⟨fun _ => h, by simp [ht]⟩

theorem allows_of_undetermined {t : Transaction} (ht : t.determined = false) (v : BitVec 64) :
    t.allows (Response.int v) := ⟨by simp [ht], fun _ => ⟨v, rfl⟩⟩

theorem step_illegal {s : State} {t : Transaction} {rest : List Transaction} {e : DecodeError} (hp : s.pending = t :: rest)
    (hd : decode t.cmd = .error e) : step s = .next ((s.accept t rest).answered (Response.failed .illegalCommand)) := by
  simp only [step, hp, hd, illegalCommand, State.failed]

theorem step_legal {s : State} {t : Transaction} {rest : List Transaction} {i : Instr} (hp : s.pending = t :: rest)
    (hd : decode t.cmd = .ok i) : step s = exec i (s.accept t rest) := by
  simp only [step, hp, hd]

/-- The machine of `answerAlone`: just reset, with `t` presented and `k` draws behind it. -/
def State.alone (k : Nat) (t : Transaction) : State := { State.reset with pending := [t], draws := k }

theorem answerAlone_eq_some {t : Transaction} {k : Nat} {u : State} {x : Response}
    (h : step (State.alone k t) = .next (u.answered x)) : answerAlone k t = some x := by
  simp only [State.alone] at h
  simp only [answerAlone, h, State.answered_answers, List.getLast?_concat]

/-- A determined transaction gets at any state the answer it gets alone after reset: where its byte is illegal the answer is
fixed, and a command's answer depends on the ports alone (O13). -/
theorem step_of_determined {s : State} {t : Transaction} {rest : List Transaction} (hp : s.pending = t :: rest)
    (ht : t.determined = true) : ∃ x, answerAlone 0 t = some x ∧ step s = .next ((s.accept t rest).answered x) := by
  cases hd : decode t.cmd with
  | error e => exact ⟨_, answerAlone_eq_some (step_illegal rfl hd), step_illegal hp hd⟩
  | ok i =>
    have hexact : i = .tonum64 → t.a.extractLsb' 53 11 = 0#11 := by
      rintro rfl
      by_contra ha
      simp [(determined_eq_false_iff t).mpr ⟨hd, ha⟩] at ht
    obtain ⟨x, hs, halone⟩ :=
      answersDependOnPortsAlone i (s.accept t rest) ((State.alone 0 t).accept t []) (agreeOn_refl _ _) hexact
    exact ⟨x, answerAlone_eq_some ((step_legal rfl hd).trans halone), (step_legal hp hd).trans hs⟩

/-- A step answers the next transaction as the spec allows, and uses up a draw exactly where the spec leaves the answer
open. -/
theorem step_of_pending {s : State} {t : Transaction} {rest : List Transaction} (hp : s.pending = t :: rest) :
    ∃ (u : State) (x : Response), step s = .next u ∧ t.allows x ∧ u.pending = rest ∧ u.answers = s.answers ++ [x] ∧
      u.draws = s.draws + if !t.determined then 1 else 0 := by
  cases ht : t.determined with
  | true =>
    obtain ⟨x, halone, hstep⟩ := step_of_determined hp ht
    exact ⟨_, x, hstep, allows_of_determined ht halone, rfl, rfl, rfl⟩
  | false =>
    obtain ⟨hd, ha⟩ := (determined_eq_false_iff t).mp ht
    have hstep := (step_legal hp hd).trans (exec_tonum64_of_above ha)
    exact ⟨_, _, hstep, allows_of_undetermined ht _, rfl, rfl, rfl⟩

/-- A run of the whole script, by induction on the transactions pending. -/
theorem run_pending (ts : List Transaction) (s : State) (hp : s.pending = ts) :
    ∃ (u : State) (xs : List Response), Host.Core.run Sys2Proof.core ts.length s = .next u ∧ u.pending = [] ∧
      u.answers = s.answers ++ xs ∧ u.draws = s.draws + ts.countP (fun t => !t.determined) ∧
      List.Forall₂ Transaction.allows ts xs := by
  induction ts generalizing s with
  | nil => exact ⟨s, [], rfl, hp, (List.append_nil _).symm, rfl, .nil⟩
  | cons t rest ih =>
    obtain ⟨m, x, hstep, hx, hrest, hm, hmdraws⟩ := step_of_pending hp
    obtain ⟨u, xs, hrun, hpend, hans, hdraws, hxs⟩ := ih m hrest
    refine ⟨u, x :: xs, (run_succ_of_step _ hstep).trans hrun, hpend, ?_, ?_, .cons hx hxs⟩
    · rw [hans, hm, List.append_assoc, List.singleton_append]
    · rw [hdraws, hmdraws, List.countP_cons]
      omega

/-- Settles O7, by the induction of `run_pending`: answer k of the run is one the spec allows for transaction k. -/
theorem answersOfARunAreStateless : Obligations.AnswersOfARunAreStateless := by
  intro s
  obtain ⟨u, xs, hrun, hpend, hans, hdraws, hxs⟩ := run_pending s.pending s rfl
  refine ⟨u, xs, hrun, hpend, hans, hxs.length_eq.symm, hdraws, fun k t hk => ?_⟩
  obtain ⟨hlt, rfl⟩ := List.getElem?_eq_some_iff.mp hk
  have hlt' : k < xs.length := hxs.length_eq ▸ hlt
  obtain ⟨hdet, hopen⟩ : (s.pending[k]).allows xs[k] := hxs.get hlt hlt'
  rw [List.getElem?_eq_getElem hlt']
  exact ⟨fun h => (hdet h).symm, fun h => (hopen h).imp fun _ hv => congrArg some hv⟩

end Sys2Proof.Machine

end

/-! # The byte sequence: family 20_memory.md (O52) -/

section

namespace Sys2Proof.Machine

/-- Inside the sequence a read gives the octets there; `memRead_inv` is the other direction. -/
theorem memRead_of_le {m : Memory} {addr n : Nat} (h : addr + n ≤ m.length) :
    memRead m addr n = some ((m.drop addr).take n) :=
  if_neg (by omega)

theorem memRead_isSome_iff (m : Memory) (addr n : Nat) : (memRead m addr n).isSome = true ↔ addr + n ≤ m.length := by
  constructor
  · intro h
    obtain ⟨cs, hcs⟩ := Option.isSome_iff_exists.mp h
    exact (memRead_inv hcs).1
  · intro h
    rw [memRead_of_le h, Option.isSome_some]

/-- Octet i of a read is the octet of the sequence at i past the read's address (R20, R22). -/
theorem memRead_getElem? {m : Memory} {addr n i : Nat} {cs : List Octet} (h : memRead m addr n = some cs) (hi : i < n) :
    cs[i]? = octetAt m (addr + i) := by
  obtain ⟨_, rfl, _⟩ := memRead_inv h
  rw [List.getElem?_take_of_lt hi, List.getElem?_drop, octetAt]

/-- Settles O52, from the two directions of definedness and the octet of a read at an index. -/
theorem memReadIsDefinedInsideTheSequence : Obligations.MemReadIsDefinedInsideTheSequence := by
  intro m addr n
  refine ⟨memRead_isSome_iff m addr n, fun cs h => ?_⟩
  obtain ⟨_, _, hlen⟩ := memRead_inv h
  exact ⟨hlen, fun i hi => memRead_getElem? h hi⟩

end Sys2Proof.Machine

end

/-! # The command byte and the ports: family 30_encoding.md (O2, O8, O3, O6, O12, O50, O54, O1, O4) -/

section

namespace Sys2Proof.Machine

/-! ## The fields of the command byte (R39 to R41) -/

/-- The byte is its three fields put together. -/
theorem toNat_eq_fields (c : BitVec 8) :
    c.toNat = (fieldZ c).toNat * 128 + (fieldWsel c).toNat * 32 + (fieldOp c).toNat := by
  have hc : c.toNat < 256 := c.isLt
  have hz : (fieldZ c).toNat = c.toNat / 128 := by
    rw [fieldZ, ← BitVec.testBit_toNat, Nat.toNat_testBit]
    omega
  rw [hz, fieldWsel, fieldOp, BitVec.extractLsb'_toNat, BitVec.extractLsb'_toNat, Nat.shiftRight_eq_div_pow,
    Nat.shiftRight_zero]
  omega

theorem wsel_lt_four (w : Width) : w.wsel < 4 := by cases w <;> decide

theorem opCode_lt (op : Op) : op.code < 32 := by cases op <;> decide

theorem widthOfWsel_eq_some_iff (f : BitVec 2) (w : Width) : widthOfWsel f = some w ↔ f.toNat = w.wsel := by
  revert f
  cases w <;> decide

theorem widthOfWsel_eq_none_iff : ∀ f : BitVec 2, widthOfWsel f = none ↔ f = 3#2 := by decide

theorem opOfCode_eq_some_iff (f : BitVec 5) (op : Op) : opOfCode f = some op ↔ f.toNat = op.code := by
  revert f
  cases op <;> decide

theorem opOfCode_eq_none_iff : ∀ f : BitVec 5, opOfCode f = none ↔ f.toNat = 0x0F ∨ 0x15 ≤ f.toNat := by decide

/-- The table has one command for each pair that has any: the command with that operation and width (R41). -/
theorem instrOfCommand_eq_some_iff (op : Op) (w : Width) (i : Instr) :
    instrOfCommand ⟨op, w⟩ = some i ↔ w = i.width ∧ op = i.op := by
  constructor
  · intro h
    cases op <;> cases w <;> cases h <;> exact ⟨rfl, rfl⟩
  · rintro ⟨rfl, rfl⟩
    cases i <;> rfl

/-- The pairs without a command are the operations from 0x10 on at a width other than 64 (R42 (d)). -/
theorem instrOfCommand_eq_none_iff (op : Op) (w : Width) :
    instrOfCommand ⟨op, w⟩ = none ↔ 0x10 ≤ op.code ∧ w.wsel ≠ 2 := by
  cases op <;> cases w <;> decide

/-! ## Decoder and encoder (R47) -/

theorem encode_toNat (i : Instr) : (encode i).toNat = i.width.wsel * 32 + i.op.code := by
  have hw := wsel_lt_four i.width
  have hop := opCode_lt i.op
  rw [encode, BitVec.toNat_ofNat]
  omega

/-- What the decoder asks of the fields: Z = 0, and WSEL and OP select the width and the operation of the command. -/
theorem decode_eq_ok_iff_fields (c : BitVec 8) (i : Instr) :
    decode c = .ok i ↔
      fieldZ c = false ∧ widthOfWsel (fieldWsel c) = some i.width ∧ opOfCode (fieldOp c) = some i.op := by
  unfold decode
  cases fieldZ c with
  | true => simp
  | false =>
    cases widthOfWsel (fieldWsel c) with
    | none => simp
    | some w =>
      cases opOfCode (fieldOp c) with
      | none => simp
      | some op =>
        have h := instrOfCommand_eq_some_iff op w i
        cases hc : instrOfCommand ⟨op, w⟩ with
        | none => simpa [hc] using h
        | some j => simpa [hc] using h

/-- The bytes that decode are the encodings: both sides fix the three fields, and the fields are the byte. -/
theorem decode_eq_ok_iff (c : BitVec 8) (i : Instr) : decode c = .ok i ↔ c = encode i := by
  have hwsel := (fieldWsel c).isLt
  have hfop := (fieldOp c).isLt
  have hw := wsel_lt_four i.width
  have hop := opCode_lt i.op
  rw [decode_eq_ok_iff_fields, widthOfWsel_eq_some_iff, opOfCode_eq_some_iff, ← BitVec.toNat_inj, encode_toNat,
    toNat_eq_fields]
  cases fieldZ c <;> simp <;> omega

theorem decode_encode (i : Instr) : decode (encode i) = .ok i := (decode_eq_ok_iff _ i).mpr rfl

theorem encode_injective {i j : Instr} (h : encode i = encode j) : i = j := by
  have hij : Except.ok i = Except.ok j := (decode_encode i).symm.trans (h ▸ decode_encode j)
  exact Except.ok.inj hij

theorem decode_of_forall_ne_encode {c : BitVec 8} (h : ∀ i : Instr, c ≠ encode i) : ∃ e, decode c = .error e := by
  cases hd : decode c with
  | error e => exact ⟨e, rfl⟩
  | ok i => exact absurd ((decode_eq_ok_iff c i).mp hd) (h i)

/-- Settles O2: a byte decodes to a command exactly when it is the command's encoding. -/
theorem decodeEncodeAgree : Obligations.DecodeEncodeAgree :=
  ⟨decode_encode, fun c i => (decode_eq_ok_iff c i).mp, encode_toNat, fun _ _ => encode_injective,
    fun _ => decode_of_forall_ne_encode⟩

/-- Settles O1: each of the eight words is the encoding of its command. -/
theorem writtenWordsDecode : Obligations.WrittenWordsDecode :=
  ⟨decode_encode .mask16, decode_encode .and32, decode_encode .lshift64, decode_encode .ror16, decode_encode .add64,
    decode_encode .tobe32, decode_encode .fromle16, decode_encode .tonums64⟩

/-- Settles O4: a step with a transaction pending runs the command its byte decodes to. -/
theorem stepRunsDecodedCommand : Obligations.StepRunsDecodedCommand := fun _ _ _ _ hp hd => step_legal hp hd

/-! ## Every answer is legal (R36, R37, R146) -/

theorem int_legal (v : BitVec 64) : (Response.int v).legal := by simp [Response.legal, Response.int]

theorem octets_legal {bs : List Octet} (h : bs.length ∈ [0, 2, 4, 8]) : (Response.octets bs).legal :=
  ⟨fun hst => absurd rfl hst, h, fun _ => rfl⟩

theorem failed_legal (st : Status) : (Response.failed st).legal := by simp [Response.legal, Response.failed]

theorem answersLegal_of_append {s u : State} {x : Response} (hs : s.answersLegal) (hu : u.answers = s.answers ++ [x])
    (hx : x.legal) : u.answersLegal := by
  intro y hy
  rw [hu, List.mem_append, List.mem_singleton] at hy
  obtain hy | rfl := hy
  · exact hs y hy
  · exact hx

/-- `o` is a next state with one answer more than `s`, and that answer is legal and is not the one to an illegal byte. -/
def AnswersLegally (s : State) (o : Host.Outcome State Fault Refusal) : Prop :=
  ∃ (u : State) (x : Response), o = .next u ∧ u.answers = s.answers ++ [x] ∧ x.legal ∧ x.status ≠ .illegalCommand

theorem answersLegally_int (s : State) (v : BitVec 64) : AnswersLegally s (.next (s.answered (Response.int v))) :=
  ⟨_, _, rfl, rfl, int_legal v, nofun⟩

theorem answersLegally_octets (s : State) {bs : List Octet} (h : bs.length ∈ [0, 2, 4, 8]) :
    AnswersLegally s (replyOctets s bs) :=
  ⟨_, _, rfl, rfl, octets_legal h, nofun⟩

theorem answersLegally_error (s : State) (e : ErrorKind) : AnswersLegally s (reply s (.error e)) :=
  ⟨_, _, rfl, rfl, failed_legal _, by cases e <;> nofun⟩

theorem answersLegally_tryBits {w : Nat} (s : State) (o : Except ErrorKind (BitVec w)) :
    AnswersLegally s (replyTryBits s o) := by
  cases o with
  | ok v => exact answersLegally_int s _
  | error e => exact answersLegally_error s e

theorem answersLegally_tryWide (s : State) (o : Except ErrorKind Wide64) : AnswersLegally s (replyTryWide s o) := by
  cases o with
  | ok x => exact answersLegally_int s _
  | error e => exact answersLegally_error s e

theorem toBeW_length (w : Nat) (x : Int) : (toBeW w x).length = nb w := by simp [toBeW]

theorem toLeW_length (w : Nat) (x : Int) : (toLeW w x).length = nb w := by simp [toLeW]

theorem w64ToBe_length (x : Wide64) : (w64ToBe x).length = 8 := by simp [w64ToBe, toBeW_length, nb]

theorem w64ToLe_length (x : Wide64) : (w64ToLe x).length = 8 := by simp [w64ToLe, toLeW_length, nb]

/-- Every command answers legally: on R without octets, by an error, or, for TOBE and TOLE, with NB(W) octets on RB. -/
theorem exec_answersLegally (i : Instr) (s : State) : AnswersLegally s (exec i s) := by
  cases i with
  | mask16 | mask32 | mask64 | and16 | and32 | and64 | or16 | or32 | or64 | xor16 | xor32 | xor64 | not16 | not32 | not64
  | rol16 | rol32 | rol64 | ror16 | ror32 | ror64 | add16 | add32 | add64 | eq64 | iszero64 | fromnum64 =>
    exact answersLegally_int s _
  | lshift16 | lshift32 | rshift16 | rshift32 | arshift16 | arshift32 | frombe16 | frombe32 | fromle16 | fromle32
  | tonums64 =>
    exact answersLegally_tryBits s _
  | lshift64 | rshift64 | arshift64 | frombe64 | fromle64 => exact answersLegally_tryWide s _
  | tobe16 | tobe32 => exact answersLegally_octets s (by rw [toBeW_length]; decide)
  | tole16 | tole32 => exact answersLegally_octets s (by rw [toLeW_length]; decide)
  | tobe64 => exact answersLegally_octets s (by rw [w64ToBe_length]; decide)
  | tole64 => exact answersLegally_octets s (by rw [w64ToLe_length]; decide)
  | tonum64 =>
    by_cases ha : s.inp.a.extractLsb' 53 11 = 0#11
    · rw [exec_tonum64_of_exact ha]
      exact answersLegally_int s _
    · rw [exec_tonum64_of_above ha]
      exact answersLegally_int s.drawn _

/-- Settles O8: a step adds nothing, the answer to an illegal byte, or the answer of a command, and each of them is legal. -/
theorem stepKeepsAnswersLegal : Obligations.StepKeepsAnswersLegal := by
  intro s u hs hstep
  obtain ⟨_, hidle⟩ | ⟨t, rest, _, ⟨e, _, hillegal⟩ | ⟨i, _, hexec⟩⟩ := step_cases s
  · obtain rfl : s = u := Host.Outcome.next.inj (hidle.symm.trans hstep)
    exact hs
  · obtain rfl := Host.Outcome.next.inj (hillegal.symm.trans hstep)
    exact answersLegal_of_append hs rfl (failed_legal _)
  · obtain ⟨m, x, hm, hans, hx, _⟩ := exec_answersLegally i (s.accept t rest)
    obtain rfl : m = u := Host.Outcome.next.inj (hm.symm.trans (hexec.symm.trans hstep))
    exact answersLegal_of_append hs hans hx

/-! ## Illegal command bytes (R42, R150) -/

/-- R42 (a) to (d), with (b) and (c) as the fields that select no width and no operation. -/
theorem reservedByte_iff_fields (c : BitVec 8) :
    reservedByte c ↔ fieldZ c = true ∨ widthOfWsel (fieldWsel c) = none ∨ opOfCode (fieldOp c) = none ∨
      (0x10 ≤ (fieldOp c).toNat ∧ (fieldWsel c).toNat ≠ 2) := by
  have hw64 : (fieldWsel c).toNat ≠ 2 ↔ fieldWsel c ≠ 2#2 := BitVec.toNat_ne_iff_ne (y := 2#2)
  rw [widthOfWsel_eq_none_iff, opOfCode_eq_none_iff, hw64, or_assoc]
  rfl

/-- The four clauses of R42 are the four ways the decoder rejects a byte, in the decoder's order. -/
theorem reservedByte_iff_decode_error (c : BitVec 8) : reservedByte c ↔ ∃ e, decode c = .error e := by
  rw [reservedByte_iff_fields]
  unfold decode
  cases fieldZ c with
  | true => simp
  | false =>
    cases hw : widthOfWsel (fieldWsel c) with
    | none => simp
    | some w =>
      cases hop : opOfCode (fieldOp c) with
      | none => simp
      | some op =>
        have h := instrOfCommand_eq_none_iff op w
        rw [(widthOfWsel_eq_some_iff _ w).mp hw, (opOfCode_eq_some_iff _ op).mp hop, ← h]
        cases hc : instrOfCommand ⟨op, w⟩ <;> simp [hc]

/-- Settles O3: the reserved bytes are those the decoder rejects, and a command never answers IllegalCommand. -/
theorem illegalBytesAnswerIllegalCommand : Obligations.IllegalBytesAnswerIllegalCommand := by
  intro s t rest hp
  rw [reservedByte_iff_decode_error]
  refine ⟨fun ⟨e, he⟩ => step_illegal hp he, fun hok => ?_⟩
  cases hd : decode t.cmd with
  | error e => exact absurd ⟨e, hd⟩ hok
  | ok i =>
    obtain ⟨u, x, hu, hans, _, hx⟩ := exec_answersLegally i (s.accept t rest)
    exact ⟨u, x, (step_legal hp hd).trans hu, hans, hx⟩

/-! ## Runs (R30, R171) -/

/-- Settles O6, by induction on the number of steps: each takes the next transaction and adds its answer. -/
theorem runGivesOneAnswerPerTransaction : Obligations.RunGivesOneAnswerPerTransaction := by
  intro s k
  induction k generalizing s with
  | zero => exact fun _ => ⟨s, [], rfl, rfl, (List.append_nil _).symm, rfl⟩
  | succ k ih =>
    intro hk
    obtain ⟨t, rest, hp⟩ := List.exists_cons_of_length_pos (Nat.zero_lt_of_lt hk)
    obtain ⟨m, x, hstep, _, hrest, hans, _⟩ := step_of_pending hp
    have hk' : k ≤ m.pending.length := by
      rw [hp, List.length_cons] at hk
      rw [hrest]
      exact Nat.le_of_succ_le_succ hk
    obtain ⟨u, xs, hrun, hdrop, hu, hlen⟩ := ih m hk'
    refine ⟨u, x :: xs, (run_succ_of_step k hstep).trans hrun, ?_, ?_, ?_⟩
    · rw [hdrop, hrest, hp, List.drop_succ_cons]
    · rw [hu, hans, List.append_assoc, List.singleton_append]
    · rw [List.length_cons, hlen]

/-! ## The ports a command reads (R32, R38, R44) -/

/-- Settles O12: above the threshold TONUM.64 draws at the counter and A, equal in the two states; every other case is
O13. -/
theorem commandsIgnoreUnreadPorts : Obligations.CommandsIgnoreUnreadPorts := by
  intro i s u hag hdraws
  by_cases hdraw : i = .tonum64 ∧ s.inp.a.extractLsb' 53 11 ≠ 0#11
  · obtain ⟨rfl, ha⟩ := hdraw
    have hau : s.inp.a = u.inp.a := hag .a (by decide)
    refine ⟨_, s.draws + 1, exec_tonum64_of_above ha, ?_⟩
    rw [exec_tonum64_of_above (hau ▸ ha), State.nextDraw, State.nextDraw, hau, hdraws]
    rfl
  · have hexact : i = .tonum64 → s.inp.a.extractLsb' 53 11 = 0#11 := fun hi => not_not.mp fun ha => hdraw ⟨hi, ha⟩
    obtain ⟨x, hs, hu⟩ := answersDependOnPortsAlone i s u hag hexact
    exact ⟨x, s.draws, hs, hdraws ▸ hu⟩

/-- The mask is the library's residue of an integer modulo 2^W (R50). -/
theorem maskW_eq_ofInt (w : Nat) (n : Int) : maskW w n = BitVec.ofInt w n := by
  apply BitVec.eq_of_toNat_eq
  have hlt : n % (2 ^ w : Nat) < (2 ^ w : Nat) := Int.emod_lt_of_pos n (by positivity)
  rw [maskW, BitVec.toNat_ofNat, BitVec.toNat_ofInt, Nat.mod_eq_of_lt (by omega)]

/-- Settles O50: a port value and its two's-complement reading differ by a multiple of 2^64, so of 2^W. -/
theorem portReadingsGiveTheSameMask : Obligations.PortReadingsGiveTheSameMask := by
  intro p w hw
  rw [maskW_eq_ofInt, maskW_eq_ofInt, ← BitVec.setWidth_eq_extractLsb' hw, BitVec.ofInt_natCast]
  exact ⟨BitVec.ofNat_toNat w p, BitVec.signExtend_eq_setWidth_of_le p hw⟩

/-! ## Host scripts (R45) -/

theorem runLine_of_error {h : HostRun} {l : Line} {e : LineError} (ht : lineTransaction h.names l = .error e) :
    runLine h l = .error e := by
  rw [runLine, ht]
  rfl

theorem runLine_of_step {h : HostRun} {l : Line} {nm : String} {t : Transaction} {u : State} {x : Response}
    (hnm : l.bind = some nm) (ht : lineTransaction h.names l = .ok t)
    (hstep : step { h.unit with pending := [t] } = .next u) (hlast : u.answers.getLast? = some x) :
    runLine h l = .ok ⟨(nm, boundOf l.command x) :: h.names, u, h.met && decide (x.status = l.expect)⟩ := by
  rw [runLine, ht]
  simp only [bind, Except.bind, hstep, hlast, hnm]
  rfl

/-- What a line with a name does where it runs: the unit adds one answer, and the name stands for what that answer gives. -/
theorem runLine_inv {h h' : HostRun} {l : Line} {nm : String} (hnm : l.bind = some nm) (hrun : runLine h l = .ok h') :
    ∃ x : Response, h'.unit.answers = h.unit.answers ++ [x] ∧ h'.names = (nm, boundOf l.command x) :: h.names := by
  cases ht : lineTransaction h.names l with
  | error e => cases (runLine_of_error ht).symm.trans hrun
  | ok t =>
    obtain ⟨u, x, hstep, _, _, hans, _⟩ := step_of_pending (s := { h.unit with pending := [t] }) rfl
    have hlast : u.answers.getLast? = some x := by rw [hans, List.getLast?_concat]
    cases (runLine_of_step hnm ht hstep hlast).symm.trans hrun
    exact ⟨x, hans, rfl⟩

theorem lookupName_cons_usable (env : Names) (nm : String) {b : Bound} (hb : b ≠ .unusable) :
    lookupName ((nm, b) :: env) nm = .ok b := by
  cases b with
  | unusable => exact absurd rfl hb
  | num v => simp [lookupName]
  | octets bs => simp [lookupName]

theorem lookupName_cons_unusable (env : Names) (nm : String) :
    lookupName ((nm, .unusable) :: env) nm = .error .noValue := by simp [lookupName]

/-- The formats of R44: only TOBE and TOLE answer on RB. -/
theorem format_eq_ser_iff (op : Op) : op.format = .ser ↔ op = .tobe ∨ op = .tole := by cases op <;> decide

theorem boundOf_of_ser {c : Command} {x : Response} (hx : x.status = .ok) (hc : c.op.format = .ser) :
    boundOf c x = .octets x.rb := by
  simp only [boundOf, hx, hc, if_true]

theorem boundOf_of_not_ser {c : Command} {x : Response} (hx : x.status = .ok) (hc : c.op.format ≠ .ser) :
    boundOf c x = .num x.r := by
  simp only [boundOf, hx, if_true]

theorem boundOf_of_failed (c : Command) {x : Response} (hx : x.status ≠ .ok) : boundOf c x = .unusable := if_neg hx

/-- Settles O54: the name is bound to what `boundOf` makes of the line's answer, which has the three cases of R45. -/
theorem scriptNameBoundOnlyOnOk : Obligations.ScriptNameBoundOnlyOnOk := by
  intro h h' l nm hnm hrun
  obtain ⟨x, hans, hnames⟩ := runLine_inv hnm hrun
  refine ⟨x, hans, ?_⟩
  rw [hnames, ← format_eq_ser_iff]
  refine ⟨fun hok hser => ?_, fun hok hser => ?_, fun hst => ?_⟩
  · rw [boundOf_of_ser hok hser]
    exact lookupName_cons_usable _ _ nofun
  · rw [boundOf_of_not_ser hok hser]
    exact lookupName_cons_usable _ _ nofun
  · rw [boundOf_of_failed _ hst]
    exact lookupName_cons_unusable _ _

end Sys2Proof.Machine

end

/-! # The masking core: family 40_masking.md (O14, O42) -/

section

namespace Sys2Proof.Machine

/-! ## The mask is the residue modulo 2^W (R50) -/

theorem maskW_toNat (w : Nat) (n : Int) : ((maskW w n).toNat : Int) = n % 2 ^ w := by
  have hnonneg : 0 ≤ n % 2 ^ w := Int.emod_nonneg n (by positivity)
  rw [maskW_eq_ofInt, BitVec.toNat_ofInt, Nat.cast_pow, Nat.cast_ofNat, Int.toNat_of_nonneg hnonneg]

theorem maskW_toNat_modEq (w : Nat) (n : Int) : ((maskW w n).toNat : Int) ≡ n [ZMOD 2 ^ w] := by
  rw [maskW_toNat]
  exact Int.mod_modEq n (2 ^ w)

/-- A mask depends on its argument through the residue class alone; the laws of R52 are congruences read through this. -/
theorem maskW_eq_maskW_iff (w : Nat) (x y : Int) : maskW w x = maskW w y ↔ x ≡ y [ZMOD 2 ^ w] := by
  rw [← BitVec.toNat_inj, ← Nat.cast_inj (R := Int), maskW_toNat, maskW_toNat, Int.ModEq]

/-! ## The commands (R51) -/

theorem maskW_intA {w : Nat} (hw : w ≤ 64) (s : State) : maskW w (intA s) = s.inp.a.extractLsb' 0 w :=
  (portReadingsGiveTheSameMask s.inp.a w hw).1

theorem exec_mask16 (s : State) :
    exec .mask16 s = .next (s.answered (.int ((s.inp.a.extractLsb' 0 16).setWidth 64))) := by
  rw [← maskW_intA (by decide)]
  rfl

theorem exec_mask32 (s : State) :
    exec .mask32 s = .next (s.answered (.int ((s.inp.a.extractLsb' 0 32).setWidth 64))) := by
  rw [← maskW_intA (by decide)]
  rfl

/-- The composite mask is the identity on the pair, and the pair of A has the value A (R33, R116). -/
theorem exec_mask64 (s : State) : exec .mask64 s = .next (s.answered (.int s.inp.a)) := by
  have hexec : exec .mask64 s = .next (s.answered (.int (wideVal (widePair s.inp.a)))) := rfl
  rw [hexec, wideVal_widePair]

/-- Settles O14: the bytes, the residue and its range, and the three commands. -/
theorem maskCommandsKeepTheLowBits : Obligations.MaskCommandsKeepTheLowBits := by
  refine ⟨by decide, by decide, by decide, fun w n => ?_, fun s => ⟨exec_mask16 s, exec_mask32 s, exec_mask64 s⟩⟩
  have hpos : (0 : Int) < 2 ^ w := by positivity
  exact ⟨maskW_toNat w n, Int.emod_nonneg n hpos.ne', Int.emod_lt_of_pos n hpos⟩

/-! ## The laws of masking (R52) -/

/-- Law (a): the values a mask leaves alone are the canonical ones, which are their own residues. -/
theorem maskW_toNat_eq_self_iff (w : Nat) (x : Int) :
    ((maskW w x).toNat : Int) = x ↔ 0 ≤ x ∧ x ≤ 2 ^ w - 1 := by
  have hpos : (0 : Int) < 2 ^ w := by positivity
  rw [maskW_toNat, Int.le_sub_one_iff]
  constructor
  · intro hx
    rw [← hx]
    exact ⟨Int.emod_nonneg x hpos.ne', Int.emod_lt_of_pos x hpos⟩
  · rintro ⟨hnonneg, hlt⟩
    exact Int.emod_eq_of_lt hnonneg hlt

/-- Law (b). -/
theorem maskW_add_mul_two_pow (w : Nat) (x k : Int) : maskW w (x + k * 2 ^ w) = maskW w x :=
  (maskW_eq_maskW_iff w _ _).mpr (Int.add_mul_emod_self_right x k (2 ^ w))

/-- Law (c) for a sum. -/
theorem maskW_add (w : Nat) (x y : Int) :
    maskW w (x + y) = maskW w ((maskW w x).toNat + (maskW w y).toNat : Nat) := by
  rw [maskW_eq_maskW_iff, Nat.cast_add]
  exact ((maskW_toNat_modEq w x).add (maskW_toNat_modEq w y)).symm

/-- Law (c) for a product. -/
theorem maskW_mul (w : Nat) (x y : Int) :
    maskW w (x * y) = maskW w ((maskW w x).toNat * (maskW w y).toNat : Nat) := by
  rw [maskW_eq_maskW_iff, Nat.cast_mul]
  exact ((maskW_toNat_modEq w x).mul (maskW_toNat_modEq w y)).symm

/-- Law (d): 2^W divides 2^W', so a congruence modulo the larger one holds modulo the smaller. -/
theorem maskW_maskW_of_le {w w' : Nat} (h : w ≤ w') (x : Int) : maskW w (maskW w' x).toNat = maskW w x :=
  (maskW_eq_maskW_iff w _ _).mpr ((maskW_toNat_modEq w' x).of_dvd (pow_dvd_pow 2 h))

/-- Settles O42: idempotence is law (d) at equal widths, and the others are its laws (a) to (d). -/
theorem maskLaws : Obligations.MaskLaws := fun w x y k =>
  ⟨maskW_maskW_of_le le_rfl x, maskW_toNat_eq_self_iff w x, maskW_add_mul_two_pow w x k, maskW_add w x y,
    maskW_mul w x y, fun _ h => maskW_maskW_of_le h x⟩

end Sys2Proof.Machine

end

/-! # The bitwise operators: family 41_bitwise.md (O15, O16, O17, O18, O43) -/

section

namespace Sys2Proof.Machine

/-! ## The operators on W-bit vectors (R55 to R58) -/

/-- A W-bit value is its own mask (R52 (a)), so an operator applied to a result masks nothing away. -/
@[simp] theorem maskW_natCast_toNat {w : Nat} (v : BitVec w) : maskW w v.toNat = v := by
  rw [maskW_eq_ofInt, BitVec.ofInt_natCast, BitVec.ofNat_toNat, BitVec.setWidth_eq]

theorem getLsbD_andW (w : Nat) (a b : Int) (i : Nat) :
    (andW w a b).getLsbD i = ((maskW w a).getLsbD i && (maskW w b).getLsbD i) := by
  rw [andW, BitVec.getLsbD_and]

theorem getLsbD_orW (w : Nat) (a b : Int) (i : Nat) :
    (orW w a b).getLsbD i = ((maskW w a).getLsbD i || (maskW w b).getLsbD i) := by
  rw [orW, BitVec.getLsbD_or]

theorem getLsbD_xorW (w : Nat) (a b : Int) (i : Nat) :
    (xorW w a b).getLsbD i = ((maskW w a).getLsbD i ^^ (maskW w b).getLsbD i) := by
  rw [xorW, BitVec.getLsbD_xor]

/-- The subtraction from 2^W - 1 is the complement of the mask, bit by bit (R58). -/
theorem notW_eq_not_maskW (w : Nat) (a : Int) : notW w a = ~~~maskW w a := by
  rw [notW, ← BitVec.toNat_not, BitVec.ofNat_toNat, BitVec.setWidth_eq]

theorem notW_toNat (w : Nat) (a : Int) : (notW w a).toNat = 2 ^ w - 1 - (maskW w a).toNat := by
  rw [notW_eq_not_maskW, BitVec.toNat_not]

/-! ## The 64-bit value of the operators on halves (R107 to R110) -/

@[simp] theorem wideVal_w64And (x y : Wide64) : wideVal (w64And x y) = wideVal x &&& wideVal y := by
  simp only [wideVal, w64And, andW, maskW_natCast_toNat]
  exact BitVec.and_append.symm

@[simp] theorem wideVal_w64Or (x y : Wide64) : wideVal (w64Or x y) = wideVal x ||| wideVal y := by
  simp only [wideVal, w64Or, orW, maskW_natCast_toNat]
  exact BitVec.or_append.symm

@[simp] theorem wideVal_w64Xor (x y : Wide64) : wideVal (w64Xor x y) = wideVal x ^^^ wideVal y := by
  simp only [wideVal, w64Xor, xorW, maskW_natCast_toNat]
  exact BitVec.xor_append.symm

@[simp] theorem wideVal_w64Not (x : Wide64) : wideVal (w64Not x) = ~~~wideVal x := by
  simp only [wideVal, w64Not, notW_eq_not_maskW, maskW_natCast_toNat]
  exact BitVec.not_append.symm

/-! ## The answers at the ports

At W = 16 and 32 the operator works on the low W bits of the ports; at W = 64 on the pairs of halves, whose values are the
ports themselves. -/

theorem maskW_intB {w : Nat} (hw : w ≤ 64) (s : State) : maskW w (intB s) = s.inp.b.extractLsb' 0 w :=
  (portReadingsGiveTheSameMask s.inp.b w hw).1

@[simp] theorem wideVal_wideA (s : State) : wideVal (wideA s) = s.inp.a := wideVal_widePair s.inp.a

@[simp] theorem wideVal_wideB (s : State) : wideVal (wideB s) = s.inp.b := wideVal_widePair s.inp.b

theorem replyBits_andW {w : Nat} (hw : w ≤ 64) (s : State) :
    replyBits s (andW w (intA s) (intB s)) =
      .next (s.answered (.int ((s.inp.a.extractLsb' 0 w &&& s.inp.b.extractLsb' 0 w).setWidth 64))) := by
  rw [replyBits_eq, andW, maskW_intA hw, maskW_intB hw]

theorem replyBits_orW {w : Nat} (hw : w ≤ 64) (s : State) :
    replyBits s (orW w (intA s) (intB s)) =
      .next (s.answered (.int ((s.inp.a.extractLsb' 0 w ||| s.inp.b.extractLsb' 0 w).setWidth 64))) := by
  rw [replyBits_eq, orW, maskW_intA hw, maskW_intB hw]

theorem replyBits_xorW {w : Nat} (hw : w ≤ 64) (s : State) :
    replyBits s (xorW w (intA s) (intB s)) =
      .next (s.answered (.int ((s.inp.a.extractLsb' 0 w ^^^ s.inp.b.extractLsb' 0 w).setWidth 64))) := by
  rw [replyBits_eq, xorW, maskW_intA hw, maskW_intB hw]

theorem replyBits_notW {w : Nat} (hw : w ≤ 64) (s : State) :
    replyBits s (notW w (intA s)) = .next (s.answered (.int ((~~~(s.inp.a.extractLsb' 0 w)).setWidth 64))) := by
  rw [replyBits_eq, notW_eq_not_maskW, maskW_intA hw]

theorem replyWide_w64And (s : State) :
    replyWide s (w64And (wideA s) (wideB s)) = .next (s.answered (.int (s.inp.a &&& s.inp.b))) := by
  rw [replyWide_eq, wideVal_w64And, wideVal_wideA, wideVal_wideB]

theorem replyWide_w64Or (s : State) :
    replyWide s (w64Or (wideA s) (wideB s)) = .next (s.answered (.int (s.inp.a ||| s.inp.b))) := by
  rw [replyWide_eq, wideVal_w64Or, wideVal_wideA, wideVal_wideB]

theorem replyWide_w64Xor (s : State) :
    replyWide s (w64Xor (wideA s) (wideB s)) = .next (s.answered (.int (s.inp.a ^^^ s.inp.b))) := by
  rw [replyWide_eq, wideVal_w64Xor, wideVal_wideA, wideVal_wideB]

theorem replyWide_w64Not (s : State) :
    replyWide s (w64Not (wideA s)) = .next (s.answered (.int (~~~s.inp.a))) := by
  rw [replyWide_eq, wideVal_w64Not, wideVal_wideA]

/-! ## The laws of the operators (R57 to R59) -/

section Laws

variable (w : Nat) (a b c : Int)

theorem andW_comm : andW w a b = andW w b a := BitVec.and_comm _ _

theorem orW_comm : orW w a b = orW w b a := BitVec.or_comm _ _

theorem xorW_comm : xorW w a b = xorW w b a := BitVec.xor_comm _ _

theorem andW_assoc : andW w (andW w a b).toNat c = andW w a (andW w b c).toNat := by
  simp only [andW, maskW_natCast_toNat, BitVec.and_assoc]

theorem orW_assoc : orW w (orW w a b).toNat c = orW w a (orW w b c).toNat := by
  simp only [orW, maskW_natCast_toNat, BitVec.or_assoc]

theorem xorW_assoc : xorW w (xorW w a b).toNat c = xorW w a (xorW w b c).toNat := by
  simp only [xorW, maskW_natCast_toNat, BitVec.xor_assoc]

theorem andW_notW_self : andW w a (notW w a).toNat = 0#w := by
  rw [andW, maskW_natCast_toNat, notW_eq_not_maskW, BitVec.and_not_self]
  rfl

theorem orW_notW_self : (orW w a (notW w a).toNat).toNat = 2 ^ w - 1 := by
  rw [orW, maskW_natCast_toNat, notW_eq_not_maskW, BitVec.or_not_self, BitVec.toNat_allOnes]

theorem xorW_self : xorW w a a = 0#w := BitVec.xor_self

theorem maskW_zero : maskW w 0 = 0#w :=
  (maskW_eq_ofInt w 0).trans (BitVec.ofInt_natCast w 0)

theorem xorW_zero : xorW w a 0 = maskW w a := by rw [xorW, maskW_zero, BitVec.xor_zero]

theorem xorW_xorW_cancel : xorW w (xorW w a b).toNat b = maskW w a := by
  simp only [xorW, maskW_natCast_toNat, BitVec.xor_assoc, BitVec.xor_self, BitVec.xor_zero]

/-- The involution gives the masked operand back, not the operand (R58). -/
theorem notW_notW : notW w (notW w a).toNat = maskW w a := by
  rw [notW_eq_not_maskW, maskW_natCast_toNat, notW_eq_not_maskW, BitVec.not_not]

theorem notW_andW : notW w (andW w a b).toNat = orW w (notW w a).toNat (notW w b).toNat := by
  simp only [notW_eq_not_maskW, andW, orW, maskW_natCast_toNat, BitVec.not_and]

theorem notW_orW : notW w (orW w a b).toNat = andW w (notW w a).toNat (notW w b).toNat := by
  simp only [notW_eq_not_maskW, andW, orW, maskW_natCast_toNat, BitVec.not_or]

theorem andW_maskW : andW w (maskW w a).toNat (maskW w b).toNat = andW w a b := by
  simp only [andW, maskW_natCast_toNat]

theorem orW_maskW : orW w (maskW w a).toNat (maskW w b).toNat = orW w a b := by
  simp only [orW, maskW_natCast_toNat]

theorem xorW_maskW : xorW w (maskW w a).toNat (maskW w b).toNat = xorW w a b := by
  simp only [xorW, maskW_natCast_toNat]

theorem notW_maskW : notW w (maskW w a).toNat = notW w a := by
  simp only [notW_eq_not_maskW, maskW_natCast_toNat]

end Laws

/-! ## The obligations -/

/-- Settles O15: the bytes, the bits of a result, and the answers at the three widths. -/
theorem andCommandsCombineBitByBit : Obligations.AndCommandsCombineBitByBit :=
  ⟨by decide, by decide, by decide, getLsbD_andW,
    fun s => ⟨replyBits_andW (by decide) s, replyBits_andW (by decide) s, replyWide_w64And s⟩⟩

/-- Settles O16, as O15. -/
theorem orCommandsCombineBitByBit : Obligations.OrCommandsCombineBitByBit :=
  ⟨by decide, by decide, by decide, getLsbD_orW,
    fun s => ⟨replyBits_orW (by decide) s, replyBits_orW (by decide) s, replyWide_w64Or s⟩⟩

/-- Settles O17, as O15, with the self-inverse laws of R57. -/
theorem xorCommandsCombineBitByBit : Obligations.XorCommandsCombineBitByBit :=
  ⟨by decide, by decide, by decide, getLsbD_xorW, fun w a => ⟨xorW_self w a, xorW_zero w a⟩,
    fun s => ⟨replyBits_xorW (by decide) s, replyBits_xorW (by decide) s, replyWide_w64Xor s⟩⟩

/-- Settles O18: the bytes, the difference from 2^W - 1 with its involution, and the answers at the three widths. -/
theorem notCommandsComplementTheLowBits : Obligations.NotCommandsComplementTheLowBits :=
  ⟨by decide, by decide, by decide, fun w a => ⟨notW_toNat w a, notW_notW w a⟩,
    fun s => ⟨replyBits_notW (by decide) s, replyBits_notW (by decide) s, replyWide_w64Not s⟩⟩

/-- Settles O43, one law of R59 after the other. -/
theorem bitwiseLaws : Obligations.BitwiseLaws := fun w a b c =>
  ⟨⟨andW_comm w a b, orW_comm w a b, xorW_comm w a b⟩,
    ⟨andW_assoc w a b c, orW_assoc w a b c, xorW_assoc w a b c⟩,
    andW_notW_self w a, orW_notW_self w a, xorW_xorW_cancel w a b, notW_andW w a b, notW_orW w a b,
    ⟨(andW_maskW w a b).symm, (orW_maskW w a b).symm, (xorW_maskW w a b).symm, (notW_maskW w a).symm⟩⟩

end Sys2Proof.Machine

end

/-! # The shifts and the rotates: family 42_shift_rotate.md (O19, O20, O21, O22, O23, O24, O25, O26, O51) -/

section

namespace Sys2Proof.Machine

/-! ## The shifts are the shifts of the masked operand (R69 to R71)

Each `By` function answers n = 0 and n >= W apart from the general rule; the shift of a bit vector has all three cases in
one. -/

theorem maskW_natCast (w k : Nat) : maskW w k = BitVec.ofNat w k := by
  rw [maskW_eq_ofInt, BitVec.ofInt_natCast]

/-- The product with 2^n, masked, is the left shift (R69). -/
theorem maskW_mul_two_pow {w : Nat} (v : BitVec w) (n : Nat) : maskW w (v.toNat * 2 ^ n : Nat) = v <<< n := by
  apply BitVec.eq_of_toNat_eq
  rw [maskW_natCast, BitVec.toNat_ofNat, BitVec.toNat_shiftLeft, Nat.shiftLeft_eq]

/-- The quotient by 2^n is the logical right shift (R70). -/
theorem ofNat_div_two_pow {w : Nat} (v : BitVec w) (n : Nat) : BitVec.ofNat w (v.toNat / 2 ^ n) = v >>> n := by
  rw [← Nat.shiftRight_eq_div_pow, ← BitVec.toNat_ushiftRight, BitVec.ofNat_toNat, BitVec.setWidth_eq]

theorem lshiftBy_eq_shiftLeft (w : Nat) (a : Int) (n : Nat) : lshiftBy w a n = maskW w a <<< n := by
  unfold lshiftBy
  split
  next hzero => rw [hzero, BitVec.shiftLeft_zero]
  next =>
    split
    next hle => rw [BitVec.shiftLeft_eq_zero hle]
    next => exact maskW_mul_two_pow _ n

theorem rshiftBy_eq_ushiftRight (w : Nat) (a : Int) (n : Nat) : rshiftBy w a n = maskW w a >>> n := by
  unfold rshiftBy
  split
  next hzero => rw [hzero, BitVec.ushiftRight_zero]
  next =>
    split
    next hle => rw [BitVec.ushiftRight_eq_zero hle]
    next => exact ofNat_div_two_pow _ n

/-- A shift by W or more leaves copies of the sign (R71). -/
theorem sshiftRight_of_width_le {w n : Nat} (v : BitVec w) (hn : w ≤ n) :
    v.sshiftRight n = if v.msb then BitVec.allOnes w else 0#w := by
  split
  next hsign => rw [BitVec.sshiftRight_eq_of_msb_true hsign, BitVec.ushiftRight_eq_zero hn, BitVec.not_zero]
  next hsign =>
    rw [BitVec.sshiftRight_eq_of_msb_false (Bool.eq_false_iff.mpr hsign), BitVec.ushiftRight_eq_zero hn]

/-- The logical shift with the bits from W-n on set to 1 is the arithmetic shift of a negative operand (R71). -/
theorem ofNat_div_or_fill {w n : Nat} {v : BitVec w} (hsign : v.msb = true) (hn : n < w) :
    BitVec.ofNat w (v.toNat / 2 ^ n ||| (2 ^ n - 1) * 2 ^ (w - n)) = v.sshiftRight n := by
  ext i hi
  rw [← BitVec.getLsbD_eq_getElem, BitVec.getLsbD_ofNat, BitVec.getElem_sshiftRight, Nat.testBit_or,
    Nat.testBit_div_two_pow, Nat.testBit_mul_two_pow, Nat.testBit_two_pow_sub_one, BitVec.testBit_toNat]
  by_cases hin : n + i < w
  · simp [hi, hin, add_comm i n, BitVec.getLsbD_eq_getElem, show ¬ w - n ≤ i by omega]
  · simp [hi, hin, hsign, show w - n ≤ i by omega, show i - (w - n) < n by omega]

theorem arshiftBy_eq_sshiftRight (w : Nat) (a : Int) (n : Nat) : arshiftBy w a n = (maskW w a).sshiftRight n := by
  unfold arshiftBy
  rw [← BitVec.msb_eq_getLsbD_last]
  split
  next hsign =>
    split
    next hzero => rw [hzero, BitVec.sshiftRight_zero]
    next =>
      split
      next hle =>
        rw [sshiftRight_of_width_le _ hle, if_pos hsign, ← BitVec.toNat_allOnes, BitVec.ofNat_toNat, BitVec.setWidth_eq]
      next hlt => exact ofNat_div_or_fill hsign (Nat.lt_of_not_le hlt)
  next hsign =>
    rw [BitVec.sshiftRight_eq_of_msb_false (Bool.eq_false_iff.mpr hsign), rshiftBy_eq_ushiftRight]

/-! ## A shift by an integer amount (R65) -/

theorem shiftChecked_natCast {α : Type} (n : Nat) (f : Nat → α) : shiftChecked n f = .ok (f n) :=
  shiftChecked_of_nonneg (Int.natCast_nonneg n) f

theorem lshiftW_of_nonneg (w : Nat) (a : Int) {n : Int} (hn : 0 ≤ n) :
    lshiftW w a n = .ok (maskW w a <<< n.toNat) := by
  rw [lshiftW, shiftChecked_of_nonneg hn, lshiftBy_eq_shiftLeft]

theorem rshiftW_of_nonneg (w : Nat) (a : Int) {n : Int} (hn : 0 ≤ n) :
    rshiftW w a n = .ok (maskW w a >>> n.toNat) := by
  rw [rshiftW, shiftChecked_of_nonneg hn, rshiftBy_eq_ushiftRight]

theorem arshiftW_of_nonneg (w : Nat) (a : Int) {n : Int} (hn : 0 ≤ n) :
    arshiftW w a n = .ok ((maskW w a).sshiftRight n.toNat) := by
  rw [arshiftW, shiftChecked_of_nonneg hn, arshiftBy_eq_sshiftRight]

/-- A bit of an arithmetic shift, with the sign bit standing for every place past the top. -/
theorem getLsbD_sshiftRight_eq_min {w i : Nat} (v : BitVec w) (n : Nat) (hi : i < w) :
    (v.sshiftRight n).getLsbD i = v.getLsbD (min (i + n) (w - 1)) := by
  rw [BitVec.getLsbD_sshiftRight, BitVec.msb_eq_getLsbD_last, add_comm n i]
  by_cases hin : i + n < w
  · simp [hi, hin, show i + n ≤ w - 1 by omega]
  · simp [hi, hin, show w - 1 ≤ i + n by omega]

/-- Settles O22: the arithmetic shift of a vector is the floor division of its signed reading. -/
theorem arithmeticShiftIsFloorDivision : Obligations.ArithmeticShiftIsFloorDivision := by
  intro wd a n
  rw [arshiftW_of_nonneg _ _ (Int.natCast_nonneg n), Int.toNat_natCast, BitVec.sshiftRight_eq,
    ← maskW_eq_ofInt, Int.shiftRight_eq_div_pow]

/-! ## The laws of the shifts (R76) -/

theorem rshiftBy_lshiftBy {w n : Nat} (a : Int) (hn : n ≤ w) :
    rshiftBy w (lshiftBy w a n).toNat n = andW w a (2 ^ (w - n) - 1 : Nat) := by
  rw [rshiftBy_eq_ushiftRight, maskW_natCast_toNat, lshiftBy_eq_shiftLeft, andW, maskW_natCast]
  ext i hi
  rw [← BitVec.getLsbD_eq_getElem, ← BitVec.getLsbD_eq_getElem, BitVec.getLsbD_ushiftRight, BitVec.getLsbD_shiftLeft,
    BitVec.getLsbD_and, BitVec.getLsbD_ofNat, Nat.testBit_two_pow_sub_one]
  by_cases hin : i < w - n
  · simp [hi, hin, show n + i < w by omega]
  · simp [hin, show ¬ n + i < w by omega]

/-- Where the sign bit is 1 the arithmetic shift is the logical one with the bits a shift clears set to 1; the operand -1,
all ones, shows which they are. -/
theorem arshiftBy_of_sign {w : Nat} {a : Int} (n : Nat) (hsign : (maskW w a).msb = true) :
    arshiftBy w a n = orW w (rshiftBy w a n).toNat (notW w (rshiftBy w (-1) n).toNat).toNat := by
  have hones : maskW w (-1) = BitVec.allOnes w := by
    rw [maskW_eq_ofInt, ← BitVec.neg_one_eq_allOnes, BitVec.ofInt_neg]
    rfl
  rw [orW, notW_eq_not_maskW, maskW_natCast_toNat, maskW_natCast_toNat, maskW_natCast_toNat, arshiftBy_eq_sshiftRight,
    rshiftBy_eq_ushiftRight, rshiftBy_eq_ushiftRight, hones]
  ext i hi
  rw [BitVec.getElem_sshiftRight, hsign]
  by_cases hin : n + i < w
  · simp [hin]
  · simp [hin]

/-- Settles O23: the laws are those of the shifts of bit vectors. -/
theorem shiftLaws : Obligations.ShiftLaws := by
  intro wd a m n
  refine ⟨⟨shiftChecked_natCast n _, shiftChecked_natCast n _, shiftChecked_natCast n _⟩, fun hn => ⟨?_, ?_⟩, ?_, ?_, ?_,
    rshiftBy_lshiftBy a, fun hsign => ?_, fun hsign => ?_⟩
  · rw [lshiftBy_eq_shiftLeft, BitVec.shiftLeft_eq_zero hn]
  · rw [rshiftBy_eq_ushiftRight, BitVec.ushiftRight_eq_zero hn]
  · simp only [lshiftBy_eq_shiftLeft, maskW_natCast_toNat, BitVec.shiftLeft_add]
  · simp only [rshiftBy_eq_ushiftRight, maskW_natCast_toNat, BitVec.shiftRight_add]
  · simp only [arshiftBy_eq_sshiftRight, maskW_natCast_toNat, BitVec.sshiftRight_add]
  · rw [arshiftBy_eq_sshiftRight, rshiftBy_eq_ushiftRight, BitVec.sshiftRight_eq_of_msb_false]
    rwa [BitVec.msb_eq_getLsbD_last]
  · exact arshiftBy_of_sign n (by rwa [BitVec.msb_eq_getLsbD_last])

/-! ## The shifts of a pair of halves (R106, R111 to R113) -/

theorem shl32_eq_shiftLeft (x : BitVec 32) (n : Nat) : shl32 x n = x <<< n := by
  rw [shl32, lshiftBy_eq_shiftLeft, maskW_natCast_toNat]

theorem shr32_eq_ushiftRight (x : BitVec 32) (n : Nat) : shr32 x n = x >>> n := by
  rw [shr32, rshiftBy_eq_ushiftRight, maskW_natCast_toNat]

theorem sar32_eq_sshiftRight (x : BitVec 32) (n : Nat) : sar32 x n = x.sshiftRight n := by
  rw [sar32, arshiftBy_eq_sshiftRight, maskW_natCast_toNat]

theorem or32_eq_or (x y : BitVec 32) : or32 x y = x ||| y := by
  rw [or32, orW, maskW_natCast_toNat, maskW_natCast_toNat]

/-! A shift of the pair, read on either side of bit 32: below 32 a half gets its own bits and those that cross from the other
half, from 32 on a half is moved whole. -/

theorem append_shiftLeft_of_lt (h l : BitVec 32) {n : Nat} (hn : n < 32) :
    (h ++ l) <<< n = (h <<< n ||| l >>> (32 - n)) ++ l <<< n := by
  ext i hi
  by_cases hlow : i < 32 <;> grind

theorem append_shiftLeft_of_ge (h l : BitVec 32) {n : Nat} (hn : 32 ≤ n) :
    (h ++ l) <<< n = l <<< (n - 32) ++ 0#32 := by
  ext i hi
  by_cases hlow : i < 32 <;> grind

theorem append_ushiftRight_of_lt (h l : BitVec 32) {n : Nat} (hn : n < 32) :
    (h ++ l) >>> n = h >>> n ++ (l >>> n ||| h <<< (32 - n)) := by
  ext i hi
  by_cases hlow : i < 32 <;> grind

theorem append_ushiftRight_of_ge (h l : BitVec 32) {n : Nat} (hn : 32 ≤ n) :
    (h ++ l) >>> n = 0#32 ++ h >>> (n - 32) := by
  ext i hi
  by_cases hlow : i < 32 <;> grind

theorem append_sshiftRight_of_lt (h l : BitVec 32) {n : Nat} (hn : n < 32) :
    (h ++ l).sshiftRight n = h.sshiftRight n ++ (l >>> n ||| h <<< (32 - n)) := by
  ext i hi
  by_cases hlow : i < 32 <;> grind

theorem append_sshiftRight_of_ge (h l : BitVec 32) {n : Nat} (hn : 32 ≤ n) :
    (h ++ l).sshiftRight n = h.sshiftRight 32 ++ h.sshiftRight (n - 32) := by
  ext i hi
  by_cases hlow : i < 32 <;> grind

theorem signFill_eq_sshiftRight (x : Wide64) {n : Nat} (hn : 32 ≤ n) : signFill x = x.high.sshiftRight n := by
  rw [sshiftRight_of_width_le _ hn, BitVec.msb_eq_getLsbD_last]
  rfl

theorem wideVal_w64LshiftBy (x : Wide64) (n : Nat) : wideVal (w64LshiftBy x n) = wideVal x <<< n := by
  simp only [w64LshiftBy, shl32_eq_shiftLeft, shr32_eq_ushiftRight, or32_eq_or]
  split
  next hzero => rw [hzero, BitVec.shiftLeft_zero]
  next =>
    split
    next hle => exact (BitVec.shiftLeft_eq_zero hle).symm
    next =>
      split
      next hge => exact (append_shiftLeft_of_ge x.high x.low hge).symm
      next hlt => exact (append_shiftLeft_of_lt x.high x.low (Nat.lt_of_not_le hlt)).symm

theorem wideVal_w64RshiftBy (x : Wide64) (n : Nat) : wideVal (w64RshiftBy x n) = wideVal x >>> n := by
  simp only [w64RshiftBy, shl32_eq_shiftLeft, shr32_eq_ushiftRight, or32_eq_or]
  split
  next hzero => rw [hzero, BitVec.ushiftRight_zero]
  next =>
    split
    next hle => exact (BitVec.ushiftRight_eq_zero hle).symm
    next =>
      split
      next hge => exact (append_ushiftRight_of_ge x.high x.low hge).symm
      next hlt => exact (append_ushiftRight_of_lt x.high x.low (Nat.lt_of_not_le hlt)).symm

theorem wideVal_w64ArshiftBy (x : Wide64) (n : Nat) : wideVal (w64ArshiftBy x n) = (wideVal x).sshiftRight n := by
  simp only [w64ArshiftBy, shl32_eq_shiftLeft, shr32_eq_ushiftRight, sar32_eq_sshiftRight, or32_eq_or]
  split
  next hzero => rw [hzero, BitVec.sshiftRight_zero]
  next =>
    have hfill : signFill x = x.high.sshiftRight 32 := signFill_eq_sshiftRight x le_rfl
    split
    next hle =>
      have hlow : signFill x = x.high.sshiftRight (n - 32) := signFill_eq_sshiftRight x (by omega)
      rw [wideVal, wideVal, append_sshiftRight_of_ge x.high x.low (by omega), ← hfill, ← hlow]
    next =>
      split
      next hge => rw [wideVal, wideVal, append_sshiftRight_of_ge x.high x.low hge, ← hfill]
      next hlt => exact (append_sshiftRight_of_lt x.high x.low (Nat.lt_of_not_le hlt)).symm

/-! ## The shift commands at the ports (R34, R65, R67) -/

theorem amount_neg_iff (s : State) : amount s < 0 ↔ s.inp.n.getLsbD 31 = true := by
  have hmsb : s.inp.n.getLsbD 31 = decide (s.inp.n.toInt < 0) :=
    (BitVec.msb_eq_getLsbD_last _).symm.trans BitVec.msb_eq_toInt
  rw [hmsb, decide_eq_true_iff, amount]

theorem amount_nonneg_iff (s : State) : 0 ≤ amount s ↔ s.inp.n.getLsbD 31 = false := by
  rw [← Int.not_lt, amount_neg_iff, Bool.not_eq_true]

theorem toNat_amount {s : State} (hn : 0 ≤ amount s) : (amount s).toNat = s.inp.n.toNat :=
  BitVec.toNat_toInt_of_msb _ ((amount_nonneg_iff s).mp hn)

section Ports

variable {w : Nat} {s : State}

theorem replyTryBits_shiftChecked (hn : 0 ≤ amount s) (f : Nat → BitVec w) :
    replyTryBits s (shiftChecked (amount s) f) = .next (s.answered (.int ((f s.inp.n.toNat).setWidth 64))) := by
  rw [shiftChecked_of_nonneg hn, toNat_amount hn, replyTryBits_ok]

theorem replyTryWide_shiftChecked (hn : 0 ≤ amount s) (f : Nat → Wide64) :
    replyTryWide s (shiftChecked (amount s) f) = .next (s.answered (.int (wideVal (f s.inp.n.toNat)))) := by
  rw [shiftChecked_of_nonneg hn, toNat_amount hn, replyTryWide_ok]

theorem replyTryBits_lshiftW (hw : w ≤ 64) (hn : 0 ≤ amount s) :
    replyTryBits s (lshiftW w (intA s) (amount s)) =
      .next (s.answered (.int ((s.inp.a.extractLsb' 0 w <<< s.inp.n.toNat).setWidth 64))) := by
  rw [lshiftW, replyTryBits_shiftChecked hn, lshiftBy_eq_shiftLeft, maskW_intA hw]

theorem replyTryBits_rshiftW (hw : w ≤ 64) (hn : 0 ≤ amount s) :
    replyTryBits s (rshiftW w (intA s) (amount s)) =
      .next (s.answered (.int ((s.inp.a.extractLsb' 0 w >>> s.inp.n.toNat).setWidth 64))) := by
  rw [rshiftW, replyTryBits_shiftChecked hn, rshiftBy_eq_ushiftRight, maskW_intA hw]

theorem replyTryBits_arshiftW (hw : w ≤ 64) (hn : 0 ≤ amount s) :
    replyTryBits s (arshiftW w (intA s) (amount s)) =
      .next (s.answered (.int (((s.inp.a.extractLsb' 0 w).sshiftRight s.inp.n.toNat).setWidth 64))) := by
  rw [arshiftW, replyTryBits_shiftChecked hn, arshiftBy_eq_sshiftRight, maskW_intA hw]

theorem replyTryWide_w64Lshift (hn : 0 ≤ amount s) :
    replyTryWide s (w64Lshift (wideA s) (amount s)) = .next (s.answered (.int (s.inp.a <<< s.inp.n.toNat))) := by
  rw [w64Lshift, replyTryWide_shiftChecked hn, wideVal_w64LshiftBy, wideVal_wideA]

theorem replyTryWide_w64Rshift (hn : 0 ≤ amount s) :
    replyTryWide s (w64Rshift (wideA s) (amount s)) = .next (s.answered (.int (s.inp.a >>> s.inp.n.toNat))) := by
  rw [w64Rshift, replyTryWide_shiftChecked hn, wideVal_w64RshiftBy, wideVal_wideA]

theorem replyTryWide_w64Arshift (hn : 0 ≤ amount s) :
    replyTryWide s (w64Arshift (wideA s) (amount s)) =
      .next (s.answered (.int (s.inp.a.sshiftRight s.inp.n.toNat))) := by
  rw [w64Arshift, replyTryWide_shiftChecked hn, wideVal_w64ArshiftBy, wideVal_wideA]

end Ports

theorem map_shiftChecked {α β : Type} (g : α → β) (n : Int) (f : Nat → α) :
    (shiftChecked n f).map g = shiftChecked n (g ∘ f) := by
  unfold shiftChecked
  split <;> rfl

/-- The nine shift commands differ in the function alone; the amount and its check are the same (R65). -/
theorem exec_shift {i : Instr} (hi : i.op = .lshift ∨ i.op = .rshift ∨ i.op = .arshift) (s : State) :
    ∃ f : Nat → Value, exec i s = reply s (shiftChecked (amount s) f) := by
  cases i with
  | lshift16 | lshift32 | lshift64 | rshift16 | rshift32 | rshift64 | arshift16 | arshift32 | arshift64 =>
    exact ⟨_, congrArg (reply s) (map_shiftChecked _ _ _)⟩
  | _ => exact absurd hi (by decide)

theorem exec_shift_of_neg {i : Instr} (hi : i.op = .lshift ∨ i.op = .rshift ∨ i.op = .arshift) {s : State}
    (hn : amount s < 0) : exec i s = .next (s.answered ⟨.invalidArgument, 0#64, []⟩) := by
  obtain ⟨f, hf⟩ := exec_shift hi s
  rw [hf, shiftChecked_of_neg hn, reply_error]
  rfl

theorem answered_injective (s : State) {x y : Response} (h : s.answered x = s.answered y) : x = y := by
  simpa [State.answered] using h

theorem status_responseOf (v : Value) : (responseOf v).status = .ok := by cases v <;> rfl

theorem exec_shift_fails_iff {i : Instr} (hi : i.op = .lshift ∨ i.op = .rshift ∨ i.op = .arshift) (s : State) :
    exec i s = .next (s.answered ⟨.invalidArgument, 0#64, []⟩) ↔ amount s < 0 := by
  refine ⟨fun hfail => ?_, exec_shift_of_neg hi⟩
  by_contra hn
  obtain ⟨f, hf⟩ := exec_shift hi s
  rw [hf, shiftChecked_of_nonneg (Int.not_lt.mp hn), reply_ok] at hfail
  have hstatus := congrArg Response.status (answered_injective s (Host.Outcome.next.inj hfail))
  rw [status_responseOf] at hstatus
  cases hstatus

/-- Settles O19: the rule of R69 and its check, then the three commands on either side of N = 0. -/
theorem lshiftCommandsShiftLeft : Obligations.LshiftCommandsShiftLeft := by
  refine ⟨by decide, by decide, by decide, fun wd a n => ⟨fun hn => ?_, fun hn => shiftChecked_of_neg hn _⟩,
    fun s => ⟨fun hn => ?_, fun hn => ?_⟩⟩
  · rw [lshiftW_of_nonneg _ _ hn, maskW_mul_two_pow]
  · exact ⟨replyTryBits_lshiftW (by decide) hn, replyTryBits_lshiftW (by decide) hn, replyTryWide_w64Lshift hn⟩
  · have hfail {i : Instr} (hi : i.op = .lshift) := exec_shift_of_neg (.inl hi) hn
    exact ⟨hfail rfl, hfail rfl, hfail rfl⟩

/-- Settles O20, as O19. -/
theorem rshiftCommandsShiftRight : Obligations.RshiftCommandsShiftRight := by
  refine ⟨by decide, by decide, by decide, fun wd a n => ⟨fun hn => ?_, fun hn => shiftChecked_of_neg hn _⟩,
    fun s => ⟨fun hn => ?_, fun hn => ?_⟩⟩
  · rw [rshiftW_of_nonneg _ _ hn, ofNat_div_two_pow]
  · exact ⟨replyTryBits_rshiftW (by decide) hn, replyTryBits_rshiftW (by decide) hn, replyTryWide_w64Rshift hn⟩
  · have hfail {i : Instr} (hi : i.op = .rshift) := exec_shift_of_neg (.inr (.inl hi)) hn
    exact ⟨hfail rfl, hfail rfl, hfail rfl⟩

/-- Settles O21, as O19. -/
theorem arshiftCommandsFillWithTheSign : Obligations.ArshiftCommandsFillWithTheSign := by
  refine ⟨by decide, by decide, by decide, fun wd a n => ⟨fun hn => ?_, fun hn => shiftChecked_of_neg hn _⟩,
    fun s => ⟨fun hn => ?_, fun hn => ?_⟩⟩
  · exact ⟨_, arshiftW_of_nonneg _ _ hn, fun i hi => getLsbD_sshiftRight_eq_min _ _ hi⟩
  · exact ⟨replyTryBits_arshiftW (by decide) hn, replyTryBits_arshiftW (by decide) hn, replyTryWide_w64Arshift hn⟩
  · have hfail {i : Instr} (hi : i.op = .arshift) := exec_shift_of_neg (.inr (.inr hi)) hn
    exact ⟨hfail rfl, hfail rfl, hfail rfl⟩

/-! ## The amount of a rotate (R66) -/

theorem rotateAmount_lt {w : Nat} (hw : 0 < w) (n : Int) : rotateAmount w n < w := by
  have hlt : n % (w : Int) < w := Int.emod_lt_of_pos n (by omega)
  rw [rotateAmount]
  omega

theorem rotateAmount_modEq {w : Nat} (hw : 0 < w) (n : Int) : (rotateAmount w n : Int) ≡ n [ZMOD w] := by
  rw [rotateAmount, Int.toNat_of_nonneg (Int.emod_nonneg n (by omega))]
  exact Int.mod_modEq n w

theorem rotateAmount_congr {w : Nat} {m n : Int} (h : m ≡ n [ZMOD w]) : rotateAmount w m = rotateAmount w n :=
  congrArg Int.toNat h

theorem rotateAmount_natCast (w k : Nat) : rotateAmount w k = k % w := by
  rw [rotateAmount, ← Int.natCast_mod, Int.toNat_natCast]

theorem rotateAmount_self (w : Nat) : rotateAmount w w = 0 := by
  rw [rotateAmount_natCast, Nat.mod_self]

/-- The amount is the one number below W in the residue class. -/
theorem rotateAmount_eq_of_modEq {w k : Nat} {n : Int} (hk : k < w) (h : n ≡ k [ZMOD w]) : rotateAmount w n = k := by
  rw [rotateAmount_congr h, rotateAmount_natCast, Nat.mod_eq_of_lt hk]

theorem rotateAmount_mod (w : Nat) (n : Int) : rotateAmount w n % w = rotateAmount w n := by
  cases w with
  | zero => exact Nat.mod_zero _
  | succ w => exact Nat.mod_eq_of_lt (rotateAmount_lt w.succ_pos n)

theorem rotateAmount_neg {w : Nat} (hw : 0 < w) (n : Int) :
    rotateAmount w (-n) = if rotateAmount w n = 0 then 0 else w - rotateAmount w n := by
  have hlt := rotateAmount_lt hw n
  have hneg : -n ≡ -(rotateAmount w n : Int) [ZMOD w] := (rotateAmount_modEq hw n).neg.symm
  split
  next hzero => exact rotateAmount_eq_of_modEq hw (by simpa [hzero] using hneg)
  next hpos =>
    refine rotateAmount_eq_of_modEq (by omega) (hneg.trans ?_)
    rw [Nat.cast_sub hlt.le, sub_eq_neg_add]
    exact (Int.add_modulus_modEq_iff.mpr rfl).symm

/-! ## The rotates are the rotates of the masked operand (R72, R73) -/

theorem rolW_eq_rotateLeft (w : Nat) (x n : Int) : rolW w x n = (maskW w x).rotateLeft (rotateAmount w n) := by
  rw [BitVec.rotateLeft_def, rotateAmount_mod]
  simp only [rolW, lshiftBy_eq_shiftLeft, rshiftBy_eq_ushiftRight]
  split
  next hzero =>
    rw [hzero, BitVec.shiftLeft_zero, Nat.sub_zero, BitVec.ushiftRight_eq_zero le_rfl, BitVec.or_zero]
  next => rfl

theorem rorW_eq_rotateRight (w : Nat) (x n : Int) : rorW w x n = (maskW w x).rotateRight (rotateAmount w n) := by
  rw [BitVec.rotateRight_def, rotateAmount_mod]
  simp only [rorW, lshiftBy_eq_shiftLeft, rshiftBy_eq_ushiftRight]
  split
  next hzero =>
    rw [hzero, BitVec.ushiftRight_zero, Nat.sub_zero, BitVec.shiftLeft_eq_zero le_rfl, BitVec.or_zero]
  next => rfl

theorem rolW_natCast {w : Nat} (v : BitVec w) (k : Nat) : rolW w v.toNat k = v.rotateLeft k := by
  rw [rolW_eq_rotateLeft, maskW_natCast_toNat, rotateAmount_natCast, BitVec.rotateLeft_mod_eq_rotateLeft]

/-- A rotate right is the rotate left that takes the other way round (R73). -/
theorem rorW_eq_rolW_neg {w : Nat} (hw : 0 < w) (x n : Int) : rorW w x n = rolW w x (-n) := by
  have hlt := rotateAmount_lt hw n
  simp only [rorW, rolW, rotateAmount_neg hw]
  split
  next hzero => simp
  next hpos => rw [if_neg (by omega), Nat.sub_sub_self hlt.le, BitVec.or_comm]

theorem getLsbD_rolW {w i : Nat} (hi : i < w) (x n : Int) :
    (rolW w x n).getLsbD i = (maskW w x).getLsbD (rotateAmount w (i - n)) := by
  have hlt := rotateAmount_lt (by omega : 0 < w) n
  have hplace : (i : Int) - n ≡ i - rotateAmount w n [ZMOD w] :=
    (Int.ModEq.refl (i : Int)).sub (rotateAmount_modEq (by omega) n).symm
  rw [rolW_eq_rotateLeft, BitVec.getLsbD_rotateLeft, rotateAmount_mod]
  by_cases hwrap : i < rotateAmount w n
  · have hwrapped : (i : Int) - n ≡ (w - rotateAmount w n + i : Nat) [ZMOD w] := by
      have hsum : ((w - rotateAmount w n + i : Nat) : Int) = i - rotateAmount w n + w := by omega
      rw [hsum]
      exact hplace.trans (Int.add_modulus_modEq_iff.mpr rfl).symm
    rw [rotateAmount_eq_of_modEq (by omega) hwrapped]
    simp [hwrap]
  · have hkept : (i : Int) - n ≡ (i - rotateAmount w n : Nat) [ZMOD w] := by
      rwa [Nat.cast_sub (Nat.le_of_not_lt hwrap)]
    rw [rotateAmount_eq_of_modEq (by omega) hkept]
    simp [hwrap, hi]

theorem getLsbD_rorW {w i : Nat} (hi : i < w) (x n : Int) :
    (rorW w x n).getLsbD i = (maskW w x).getLsbD (rotateAmount w (i + n)) := by
  rw [rorW_eq_rolW_neg (by omega), getLsbD_rolW hi, sub_neg_eq_add]

/-! ## The laws of the rotates (R75) -/

section RotateLaws

variable {w : Nat} (hw : 0 < w) (x m n : Int)

theorem rolW_of_amount_eq_zero {n : Int} (hn : rotateAmount w n = 0) : rolW w x n = maskW w x := if_pos hn

theorem rolW_zero : rolW w x 0 = maskW w x := rolW_of_amount_eq_zero x (by simp [rotateAmount])

theorem rolW_width : rolW w x w = maskW w x := rolW_of_amount_eq_zero x (rotateAmount_self w)

include hw

theorem rolW_rolW : rolW w (rolW w x m).toNat n = rolW w x (m + n) := by
  ext i hi
  have hplace : (rotateAmount w (i - n) : Int) - m ≡ i - (m + n) [ZMOD w] := by
    rw [add_comm, ← sub_sub]
    exact (rotateAmount_modEq hw _).sub rfl
  rw [← BitVec.getLsbD_eq_getElem, ← BitVec.getLsbD_eq_getElem, getLsbD_rolW hi, maskW_natCast_toNat,
    getLsbD_rolW (rotateAmount_lt hw _), rotateAmount_congr hplace, getLsbD_rolW hi]

theorem rolW_rorW : rolW w (rorW w x n).toNat n = maskW w x := by
  rw [rorW_eq_rolW_neg hw, rolW_rolW hw, neg_add_cancel, rolW_zero]

theorem rorW_rolW : rorW w (rolW w x n).toNat n = maskW w x := by
  rw [rorW_eq_rolW_neg hw, rolW_rolW hw, add_neg_cancel, rolW_zero]

theorem rolW_notW : rolW w (notW w x).toNat n = notW w (rolW w x n).toNat := by
  ext i hi
  simp only [notW_eq_not_maskW, maskW_natCast_toNat, ← BitVec.getLsbD_eq_getElem, BitVec.getLsbD_not,
    getLsbD_rolW hi, hi, rotateAmount_lt hw]

theorem rorW_notW : rorW w (notW w x).toNat n = notW w (rorW w x n).toNat := by
  rw [rorW_eq_rolW_neg hw, rorW_eq_rolW_neg hw, rolW_notW hw]

end RotateLaws

/-- A window of length W holds as many 1s of a sequence of period W wherever it starts: moving its start by k takes k places
off one end and puts places of the same residues on at the other. -/
theorem countP_range_add_of_periodic {p : Nat → Bool} {w : Nat} (hp : Function.Periodic p w) (k : Nat) :
    (List.range w).countP (fun i => p (k + i)) = (List.range w).countP p := by
  have hfirst : (List.range (k + w)).countP p = (List.range k).countP p + (List.range w).countP (fun i => p (k + i)) := by
    rw [List.range_add, List.countP_append, List.countP_map]
    rfl
  have hlast : (List.range (w + k)).countP p = (List.range w).countP p + (List.range k).countP (fun i => p (w + i)) := by
    rw [List.range_add, List.countP_append, List.countP_map]
    rfl
  have hwindow : (fun i => p (w + i)) = p := funext fun i => add_comm w i ▸ hp i
  rw [hwindow, add_comm w k] at hlast
  omega

theorem countP_rolW {w : Nat} (hw : 0 < w) (x n : Int) :
    (List.range w).countP (fun i => (rolW w x n).getLsbD i) =
      (List.range w).countP (fun i => (maskW w x).getLsbD i) := by
  have hplace {i : Nat} : rotateAmount w (i - n) = (rotateAmount w (-n) + i) % w := by
    rw [← rotateAmount_natCast]
    refine rotateAmount_congr ?_
    rw [Nat.cast_add, sub_eq_neg_add]
    exact ((rotateAmount_modEq hw (-n)).add_right _).symm
  have hp : Function.Periodic (fun i => (maskW w x).getLsbD (i % w)) w := (Nat.periodic_mod w).comp _
  calc (List.range w).countP (fun i => (rolW w x n).getLsbD i)
      = (List.range w).countP (fun i => (maskW w x).getLsbD ((rotateAmount w (-n) + i) % w)) :=
        List.countP_congr fun i hi => by rw [getLsbD_rolW (List.mem_range.mp hi), hplace]
    _ = (List.range w).countP (fun i => (maskW w x).getLsbD (i % w)) := countP_range_add_of_periodic hp _
    _ = (List.range w).countP (fun i => (maskW w x).getLsbD i) :=
        List.countP_congr fun i hi => by rw [Nat.mod_eq_of_lt (List.mem_range.mp hi)]

theorem width_bits_pos (wd : Width) : 0 < wd.bits := by cases wd <;> decide

/-- Settles O26: the rotates right are rotates left by the amount negated, and the bit formula carries the laws of those. -/
theorem rotateLaws : Obligations.RotateLaws := by
  intro wd x m n
  have hw := width_bits_pos wd
  refine ⟨rolW_rorW hw x n, rorW_rolW hw x n, rolW_width x, rolW_rolW hw x m n, rolW_notW hw x n, rorW_notW hw x n,
    countP_rolW hw x n, ?_⟩
  rw [rorW_eq_rolW_neg hw]
  exact countP_rolW hw x (-n)

/-! ## The rotates of a pair of halves (R114, R115) -/

theorem wideVal_rotlLt32 (h l : BitVec 32) {k : Nat} (hk : k < 32) :
    wideVal (rotlLt32 h l k) = (h ++ l).rotateLeft k := by
  simp only [rotlLt32, wideVal, shl32_eq_shiftLeft, shr32_eq_ushiftRight, or32_eq_or]
  rw [BitVec.rotateLeft_def, Nat.mod_eq_of_lt (by omega), append_shiftLeft_of_lt h l hk,
    append_ushiftRight_of_ge h l (by omega), BitVec.or_append, BitVec.or_zero]
  congr 3
  omega

/-- Swapping the halves is the rotate by 32. -/
theorem append_rotateLeft_32 (h l : BitVec 32) : (h ++ l).rotateLeft 32 = l ++ h := by
  rw [BitVec.rotateLeft_def, append_shiftLeft_of_ge h l (by decide), append_ushiftRight_of_ge h l (by decide),
    BitVec.or_append]
  simp

theorem rotateLeft_rotateLeft {w : Nat} (hw : 0 < w) (v : BitVec w) (j k : Nat) :
    (v.rotateLeft j).rotateLeft k = v.rotateLeft (j + k) := by
  rw [← rolW_natCast, ← rolW_natCast v j, rolW_rolW hw, ← Nat.cast_add, rolW_natCast]

/-- From 32 on the formula is applied to the swapped pair: a rotate by 32 and one by the rest. -/
theorem wideVal_w64Rol (x : Wide64) (n : Int) : wideVal (w64Rol x n) = rolW 64 (wideVal x).toNat n := by
  have hlt : rotateAmount 64 n < 64 := rotateAmount_lt (by decide) n
  simp only [w64Rol]
  split
  next hzero => rw [rolW_of_amount_eq_zero _ hzero, maskW_natCast_toNat]
  next =>
    rw [rolW_eq_rotateLeft, maskW_natCast_toNat]
    split
    next hswap => rw [hswap, wideVal, wideVal, append_rotateLeft_32]
    next =>
      split
      next hlow => exact wideVal_rotlLt32 x.high x.low hlow
      next hhigh =>
        rw [wideVal_rotlLt32 x.low x.high (by omega), ← append_rotateLeft_32 x.high x.low,
          rotateLeft_rotateLeft (by decide), Nat.add_sub_cancel' (by omega), wideVal]

/-- The formula of the rotate right is that of the rotate left on the swapped pair, by what is left of 32. -/
theorem rotrLt32_eq_rotlLt32 (h l : BitVec 32) {k : Nat} (hk : k < 32) : rotrLt32 h l k = rotlLt32 l h (32 - k) := by
  simp only [rotrLt32, rotlLt32, or32_eq_or, Nat.sub_sub_self hk.le, BitVec.or_comm]

theorem w64Ror_eq_w64Rol_neg (x : Wide64) (n : Int) : w64Ror x n = w64Rol x (-n) := by
  have hlt : rotateAmount 64 n < 64 := rotateAmount_lt (by decide) n
  simp only [w64Ror, w64Rol, rotateAmount_neg (by decide : 0 < 64)]
  by_cases hzero : rotateAmount 64 n = 0
  · simp [hzero]
  by_cases hswap : rotateAmount 64 n = 32
  · simp [hswap]
  have hpos : 64 - rotateAmount 64 n ≠ 0 := by omega
  have hne : 64 - rotateAmount 64 n ≠ 32 := by omega
  simp only [hzero, hswap, hpos, hne, if_false]
  by_cases hlow : rotateAmount 64 n < 32
  · have hrest : 64 - rotateAmount 64 n - 32 = 32 - rotateAmount 64 n := by omega
    rw [if_pos hlow, if_neg (by omega), rotrLt32_eq_rotlLt32 _ _ hlow, hrest]
  · have hrest : 32 - (rotateAmount 64 n - 32) = 64 - rotateAmount 64 n := by omega
    rw [if_neg hlow, if_pos (by omega), rotrLt32_eq_rotlLt32 _ _ (by omega), hrest]

theorem wideVal_w64Ror (x : Wide64) (n : Int) : wideVal (w64Ror x n) = rorW 64 (wideVal x).toNat n := by
  rw [w64Ror_eq_w64Rol_neg, wideVal_w64Rol, rorW_eq_rolW_neg (by decide)]

/-! ## The rotate commands at the ports (R34, R67) -/

/-- At a width 2^k the amount is the low k bits of N, whatever its sign. -/
theorem rotateAmount_amount {k : Nat} (hk : k ≤ 32) (s : State) :
    rotateAmount (2 ^ k) (amount s) = (s.inp.n.extractLsb' 0 k).toNat := by
  have hlow : maskW k (amount s) = s.inp.n.extractLsb' 0 k := by
    rw [maskW_eq_ofInt, ← BitVec.setWidth_eq_extractLsb' hk]
    exact BitVec.signExtend_eq_setWidth_of_le _ hk
  rw [← hlow, rotateAmount, ← Int.toNat_natCast (maskW k (amount s)).toNat, maskW_toNat, Nat.cast_pow, Nat.cast_ofNat]

section Ports

variable {k : Nat} (hk : k ≤ 6) (s : State)
include hk

theorem replyBits_rolW :
    replyBits s (rolW (2 ^ k) (intA s) (amount s)) =
      .next (s.answered (.int
        (((s.inp.a.extractLsb' 0 (2 ^ k)).rotateLeft (s.inp.n.extractLsb' 0 k).toNat).setWidth 64))) := by
  have hw : 2 ^ k ≤ 64 := Nat.pow_le_pow_right (by decide) hk
  rw [replyBits_eq, rolW_eq_rotateLeft, maskW_intA hw, rotateAmount_amount (by omega)]

theorem replyBits_rorW :
    replyBits s (rorW (2 ^ k) (intA s) (amount s)) =
      .next (s.answered (.int
        (((s.inp.a.extractLsb' 0 (2 ^ k)).rotateRight (s.inp.n.extractLsb' 0 k).toNat).setWidth 64))) := by
  have hw : 2 ^ k ≤ 64 := Nat.pow_le_pow_right (by decide) hk
  rw [replyBits_eq, rorW_eq_rotateRight, maskW_intA hw, rotateAmount_amount (by omega)]

end Ports

theorem replyWide_w64Rol (s : State) :
    replyWide s (w64Rol (wideA s) (amount s)) =
      .next (s.answered (.int (s.inp.a.rotateLeft (s.inp.n.extractLsb' 0 6).toNat))) := by
  have hamount : rotateAmount 64 (amount s) = (s.inp.n.extractLsb' 0 6).toNat :=
    rotateAmount_amount (k := 6) (by decide) s
  rw [replyWide_eq, wideVal_w64Rol, rolW_eq_rotateLeft, maskW_natCast_toNat, wideVal_wideA, hamount]

theorem replyWide_w64Ror (s : State) :
    replyWide s (w64Ror (wideA s) (amount s)) =
      .next (s.answered (.int (s.inp.a.rotateRight (s.inp.n.extractLsb' 0 6).toNat))) := by
  have hamount : rotateAmount 64 (amount s) = (s.inp.n.extractLsb' 0 6).toNat :=
    rotateAmount_amount (k := 6) (by decide) s
  rw [replyWide_eq, wideVal_w64Ror, rorW_eq_rotateRight, maskW_natCast_toNat, wideVal_wideA, hamount]

/-- Settles O24: the bytes, the bit formula, and the three commands. -/
theorem rolCommandsRotateLeft : Obligations.RolCommandsRotateLeft :=
  ⟨by decide, by decide, by decide, fun _ x n _ hi => getLsbD_rolW hi x n,
    fun s => ⟨replyBits_rolW (k := 4) (by decide) s, replyBits_rolW (k := 5) (by decide) s, replyWide_w64Rol s⟩⟩

/-- Settles O25, as O24. -/
theorem rorCommandsRotateRight : Obligations.RorCommandsRotateRight :=
  ⟨by decide, by decide, by decide, fun _ x n _ hi => getLsbD_rorW hi x n,
    fun wd x n => rorW_eq_rolW_neg (width_bits_pos wd) x n,
    fun s => ⟨replyBits_rorW (k := 4) (by decide) s, replyBits_rorW (k := 5) (by decide) s, replyWide_w64Ror s⟩⟩

/-! ## Shifts by W or more at the ports (R67, R68) -/

/-- Below 2^31 the amount is the unsigned reading of N, and the bits of N[30:k] say how many times 2^k is in it. -/
theorem two_pow_le_amount_iff {s : State} (hn : 0 ≤ amount s) {k m : Nat} (hkm : k + m = 31) :
    (2 ^ k : Nat) ≤ amount s ↔ s.inp.n.extractLsb' k m ≠ 0#m := by
  have hreading : amount s = s.inp.n.toNat := by rw [← toNat_amount hn, Int.toNat_of_nonneg hn]
  have hlt : s.inp.n.toNat < 2 ^ k * 2 ^ m := by
    have htop : amount s < 2 ^ 31 := BitVec.toInt_lt
    rw [← pow_add, hkm]
    omega
  rw [hreading, Nat.cast_le, ne_eq, ← BitVec.toNat_inj, BitVec.extractLsb'_toNat, Nat.shiftRight_eq_div_pow,
    Nat.mod_eq_of_lt (Nat.div_lt_of_lt_mul hlt), BitVec.toNat_ofNat, Nat.zero_mod, Nat.div_eq_zero_iff_lt (by positivity),
    Nat.not_lt]

theorem toNat_le_of_extractLsb'_ne_zero {s : State} (hn : 0 ≤ amount s) {k m : Nat} (hkm : k + m = 31)
    (hbits : s.inp.n.extractLsb' k m ≠ 0#m) : 2 ^ k ≤ s.inp.n.toNat := by
  have hle := (two_pow_le_amount_iff hn hkm).mpr hbits
  rw [← toNat_amount hn]
  omega

section WholeWidth

variable {w : Nat} {s : State}

theorem replyTryBits_lshiftW_of_width_le (hw : w ≤ 64) (hn : 0 ≤ amount s) (hle : w ≤ s.inp.n.toNat) :
    replyTryBits s (lshiftW w (intA s) (amount s)) = .next (s.answered (.int 0#64)) := by
  rw [replyTryBits_lshiftW hw hn, BitVec.shiftLeft_eq_zero hle, BitVec.setWidth_zero]

theorem replyTryBits_rshiftW_of_width_le (hw : w ≤ 64) (hn : 0 ≤ amount s) (hle : w ≤ s.inp.n.toNat) :
    replyTryBits s (rshiftW w (intA s) (amount s)) = .next (s.answered (.int 0#64)) := by
  rw [replyTryBits_rshiftW hw hn, BitVec.ushiftRight_eq_zero hle, BitVec.setWidth_zero]

theorem replyTryBits_arshiftW_of_width_le (hw : w ≤ 64) (hpos : 0 < w) (hn : 0 ≤ amount s) (hle : w ≤ s.inp.n.toNat) :
    replyTryBits s (arshiftW w (intA s) (amount s)) =
      .next (s.answered (.int (if s.inp.a.getLsbD (w - 1) then (BitVec.allOnes w).setWidth 64 else 0#64))) := by
  have hsign : (s.inp.a.extractLsb' 0 w).msb = s.inp.a.getLsbD (w - 1) := by
    rw [BitVec.msb_eq_getLsbD_last, BitVec.getLsbD_extractLsb', Nat.zero_add, decide_eq_true (by omega), Bool.true_and]
  rw [replyTryBits_arshiftW hw hn, sshiftRight_of_width_le _ hle, hsign, apply_ite (BitVec.setWidth 64),
    BitVec.setWidth_zero]

end WholeWidth

/-- Settles O51: the sign of N decides the check, its low bits the rotates, and its bits from log2 W to 30 whether a shift
takes the whole width. -/
theorem amountPortReadings : Obligations.AmountPortReadings := by
  refine ⟨fun i s hi => (exec_shift_fails_iff hi s).trans (amount_neg_iff s), fun s => ⟨amount_neg_iff s,
    rotateAmount_amount (k := 4) (by decide) s, rotateAmount_amount (k := 5) (by decide) s,
    rotateAmount_amount (k := 6) (by decide) s, fun hsign => ?_⟩⟩
  have hn := (amount_nonneg_iff s).mpr hsign
  refine ⟨two_pow_le_amount_iff hn (k := 4) rfl, two_pow_le_amount_iff hn (k := 5) rfl,
    two_pow_le_amount_iff hn (k := 6) rfl, fun hbits => ?_, fun hbits => ?_, fun hbits => ?_⟩
  · have hle : 16 ≤ s.inp.n.toNat := toNat_le_of_extractLsb'_ne_zero hn (k := 4) rfl hbits
    exact ⟨replyTryBits_lshiftW_of_width_le (by decide) hn hle, replyTryBits_rshiftW_of_width_le (by decide) hn hle,
      replyTryBits_arshiftW_of_width_le (by decide) (by decide) hn hle⟩
  · have hle : 32 ≤ s.inp.n.toNat := toNat_le_of_extractLsb'_ne_zero hn (k := 5) rfl hbits
    exact ⟨replyTryBits_lshiftW_of_width_le (by decide) hn hle, replyTryBits_rshiftW_of_width_le (by decide) hn hle,
      replyTryBits_arshiftW_of_width_le (by decide) (by decide) hn hle⟩
  · have hle : 64 ≤ s.inp.n.toNat := toNat_le_of_extractLsb'_ne_zero hn (k := 6) rfl hbits
    have hl := replyTryWide_w64Lshift hn
    have hr := replyTryWide_w64Rshift hn
    have ha := replyTryWide_w64Arshift hn
    rw [BitVec.shiftLeft_eq_zero hle] at hl
    rw [BitVec.ushiftRight_eq_zero hle] at hr
    rw [sshiftRight_of_width_le _ hle, BitVec.msb_eq_getLsbD_last] at ha
    exact ⟨hl, hr, ha⟩

end Sys2Proof.Machine

end

/-! # The modular adder: family 43_add.md (O27, O28) -/

section

namespace Sys2Proof.Machine

/-! ## The adder is the addition of the masked operands (R85, R117) -/

theorem addW_eq_add (w : Nat) (a b : Int) : addW w a b = maskW w a + maskW w b := by
  rw [addW, maskW_natCast, BitVec.ofNat_add, BitVec.ofNat_toNat, BitVec.ofNat_toNat, BitVec.setWidth_eq,
    BitVec.setWidth_eq]

theorem addW_toNat (w : Nat) (a b : Int) :
    (addW w a b).toNat = ((maskW w a).toNat + (maskW w b).toNat) % 2 ^ w := by
  rw [addW_eq_add, BitVec.toNat_add]

/-- The carry of the low halves goes into the high half, and the carry of the high halves is lost (R117). -/
@[simp] theorem wideVal_w64Add (x y : Wide64) : wideVal (w64Add x y) = wideVal x + wideVal y := by
  have hx : x.low.toNat < 2 ^ 32 := x.low.isLt
  have hy : y.low.toNat < 2 ^ 32 := y.low.isLt
  apply BitVec.eq_of_toNat_eq
  rw [BitVec.toNat_add, wideVal_toNat, wideVal_toNat, wideVal_toNat]
  simp only [w64Add, BitVec.toNat_ofNat]
  by_cases hcarry : 2 ^ 32 ≤ x.low.toNat + y.low.toNat
  · simp only [if_pos hcarry]
    omega
  · simp only [if_neg hcarry]
    omega

/-! ## The answers at the ports -/

theorem replyBits_addW {w : Nat} (hw : w ≤ 64) (s : State) :
    replyBits s (addW w (intA s) (intB s)) =
      .next (s.answered (.int ((s.inp.a.extractLsb' 0 w + s.inp.b.extractLsb' 0 w).setWidth 64))) := by
  rw [replyBits_eq, addW_eq_add, maskW_intA hw, maskW_intB hw]

theorem replyWide_w64Add (s : State) :
    replyWide s (w64Add (wideA s) (wideB s)) = .next (s.answered (.int (s.inp.a + s.inp.b))) := by
  rw [replyWide_eq, wideVal_w64Add, wideVal_wideA, wideVal_wideB]

/-- Settles O27: the bytes, the residue of the exact sum, and the answers at the three widths. -/
theorem addCommandsWrapAround : Obligations.AddCommandsWrapAround :=
  ⟨by decide, by decide, by decide, addW_toNat,
    fun s => ⟨replyBits_addW (by decide) s, replyBits_addW (by decide) s, replyWide_w64Add s⟩⟩

/-! ## The laws of the adder (R86) -/

theorem maskW_sub (w : Nat) (a b : Int) : maskW w (a - b) = maskW w a - maskW w b := by
  rw [maskW_eq_ofInt, maskW_eq_ofInt, maskW_eq_ofInt, sub_eq_add_neg, BitVec.ofInt_add, BitVec.ofInt_neg,
    BitVec.sub_eq_add_neg]

theorem addW_comm (w : Nat) (a b : Int) : addW w a b = addW w b a := by
  rw [addW_eq_add, addW_eq_add, BitVec.add_comm]

theorem addW_assoc (w : Nat) (a b c : Int) :
    addW w (addW w a b).toNat c = addW w a (addW w b c).toNat := by
  simp only [addW_eq_add, maskW_natCast_toNat, BitVec.add_assoc]

/-- The complement plus one is the two's-complement negation. -/
theorem addW_notW_one (w : Nat) (b : Int) : addW w (notW w b).toNat 1 = -maskW w b := by
  have hone : maskW w 1 = 1#w := maskW_natCast w 1
  rw [addW_eq_add, maskW_natCast_toNat, notW_eq_not_maskW, hone, BitVec.neg_eq_not_add]

theorem addW_negated (w : Nat) (a b : Int) :
    addW w a (addW w (notW w b).toNat 1).toNat = maskW w (a - b) := by
  rw [addW_notW_one, addW_eq_add, maskW_natCast_toNat, maskW_sub, BitVec.sub_eq_add_neg]

theorem addW_negated_self (w : Nat) (a : Int) : addW w a (addW w (notW w a).toNat 1).toNat = 0#w := by
  rw [addW_negated, sub_self, maskW_zero]

/-! ## The carry out (R86) -/

/-- What a full adder carries on, read off its two operand bits and its sum bit instead of the carry it takes in. -/
theorem atLeastTwo_eq_of_sum (x y c : Bool) :
    Bool.atLeastTwo x y c = ((x && y) || ((x || y) && !(x ^^ (y ^^ c)))) := by
  revert x y c
  decide

theorem getLsbD_carryFormula {w i : Nat} (hi : i < w) (x y : BitVec w) :
    ((x &&& y) ||| ((x ||| y) &&& ~~~(x + y))).getLsbD i = BitVec.carry (i + 1) x y false := by
  rw [BitVec.carry_succ, atLeastTwo_eq_of_sum, ← BitVec.getLsbD_add hi]
  simp [hi]

theorem carry_width_iff {w : Nat} (x y : BitVec w) :
    BitVec.carry w x y false = true ↔ 2 ^ w ≤ x.toNat + y.toNat := by
  rw [BitVec.carry_width, decide_eq_true_iff, Bool.toNat_false, Nat.add_zero]

theorem addW_carry_iff {w : Nat} (hw : 0 < w) (a b : Int) :
    2 ^ w ≤ (maskW w a).toNat + (maskW w b).toNat ↔
      ((maskW w a &&& maskW w b) |||
        ((maskW w a ||| maskW w b) &&& notW w (addW w a b).toNat)).getLsbD (w - 1) = true := by
  rw [notW_eq_not_maskW, maskW_natCast_toNat, addW_eq_add, getLsbD_carryFormula (Nat.sub_one_lt_of_lt hw),
    Nat.sub_add_cancel hw, carry_width_iff]

/-- Settles O28, one law of R86 after the other. -/
theorem adderLaws : Obligations.AdderLaws := fun wd a b c =>
  ⟨(maskW_add wd.bits a b).symm, addW_comm _ a b, addW_assoc _ a b c, addW_negated_self _ a, addW_negated _ a b,
    addW_carry_iff (width_bits_pos wd) a b⟩

end Sys2Proof.Machine

end

/-! # The byte codec: family 44_byte_codec.md (O29, O30, O31, O32, O33, O34) -/

section

namespace Sys2Proof.Machine

/-! ## The two sums (R93, R94)

The little-endian sum is the one to reason with: it splits at an append and determines its octets. The big-endian sum is the
little-endian one of the reversed octets. -/

theorem leSum_append (cs ds : List Octet) : leSum (cs ++ ds) = leSum cs + 2 ^ (8 * cs.length) * leSum ds := by
  induction cs with
  | nil => simp [leSum]
  | cons c cs ih =>
    rw [List.cons_append, leSum, leSum, ih, List.length_cons]
    ring

theorem leSum_lt (cs : List Octet) : leSum cs < 2 ^ (8 * cs.length) := by
  induction cs with
  | nil => decide
  | cons c cs ih =>
    have hc : c.toNat < 2 ^ 8 := c.isLt
    rw [leSum, List.length_cons, Nat.mul_succ, Nat.pow_add]
    omega

/-- The sum determines the octets: the first is its residue modulo 2^8, the others are in the quotient. -/
theorem eq_of_leSum_eq {cs ds : List Octet} (hlen : cs.length = ds.length) (hsum : leSum cs = leSum ds) : cs = ds := by
  induction cs generalizing ds with
  | nil => exact (List.length_eq_zero_iff.mp hlen.symm).symm
  | cons c cs ih =>
    cases ds with
    | nil => cases hlen
    | cons d ds =>
      have hc : c.toNat < 2 ^ 8 := c.isLt
      have hd : d.toNat < 2 ^ 8 := d.isLt
      rw [leSum, leSum] at hsum
      have hfirst : c = d := BitVec.eq_of_toNat_eq (by omega)
      have hrest : cs = ds := ih (Nat.succ.inj hlen) (by omega)
      rw [hfirst, hrest]

theorem beSum_eq_leSum_reverse (cs : List Octet) : beSum cs = leSum cs.reverse := by
  induction cs with
  | nil => rfl
  | cons c cs ih =>
    rw [beSum, ih, List.reverse_cons, leSum_append, List.length_reverse, leSum, leSum]
    ring

theorem beSum_lt (cs : List Octet) : beSum cs < 2 ^ (8 * cs.length) := by
  rw [beSum_eq_leSum_reverse, ← List.length_reverse]
  exact leSum_lt cs.reverse

theorem beSum_append (cs ds : List Octet) : beSum (cs ++ ds) = beSum cs * 2 ^ (8 * ds.length) + beSum ds := by
  rw [beSum_eq_leSum_reverse, List.reverse_append, leSum_append, List.length_reverse, ← beSum_eq_leSum_reverse,
    ← beSum_eq_leSum_reverse]
  ring

theorem leSum_map_range (f : Nat → Octet) (n : Nat) :
    leSum ((List.range n).map f) = ((List.range n).map fun i => (f i).toNat * 2 ^ (8 * i)).sum := by
  induction n with
  | zero => rfl
  | succ n ih => simp [List.range_succ, leSum_append, leSum, ih, mul_comm]

theorem beSum_map_range (f : Nat → Octet) (n : Nat) :
    beSum ((List.range n).map f) = ((List.range n).map fun i => (f i).toNat * 2 ^ (8 * (n - 1 - i))).sum := by
  induction n generalizing f with
  | zero => rfl
  | succ n ih =>
    rw [List.range_succ_eq_map, List.map_cons, List.map_cons, List.map_map, List.map_map, beSum, ih, List.sum_cons,
      List.length_map, List.length_range]
    simp only [Function.comp_def, Nat.add_sub_cancel, Nat.sub_zero, Nat.sub_sub, Nat.succ_eq_one_add]

/-! ## The octets of a value (R91, R92) -/

/-- An octet of a value is eight of its bits. -/
theorem ofNat_div_two_pow_eq_extractLsb' {w : Nat} (v : BitVec w) (k : Nat) :
    BitVec.ofNat 8 (v.toNat / 2 ^ k) = v.extractLsb' k 8 := by
  rw [← Nat.shiftRight_eq_div_pow]
  rfl

theorem toBeW_eq_map_extractLsb' (w : Nat) (x : Int) :
    toBeW w x = (List.range (nb w)).map fun i => (maskW w x).extractLsb' (8 * (nb w - 1 - i)) 8 := by
  simp only [toBeW, ofNat_div_two_pow_eq_extractLsb']

theorem toLeW_eq_map_extractLsb' (w : Nat) (x : Int) :
    toLeW w x = (List.range (nb w)).map fun i => (maskW w x).extractLsb' (8 * i) 8 := by
  simp only [toLeW, ofNat_div_two_pow_eq_extractLsb']

theorem getElem?_toBeW {w i : Nat} (x : Int) (hi : i < nb w) :
    (toBeW w x)[i]? = some (BitVec.ofNat 8 ((maskW w x).toNat / 2 ^ (8 * (nb w - 1 - i)))) := by
  rw [toBeW, List.getElem?_map, List.getElem?_range hi, Option.map_some]

theorem getElem?_toLeW {w i : Nat} (x : Int) (hi : i < nb w) :
    (toLeW w x)[i]? = some (BitVec.ofNat 8 ((maskW w x).toNat / 2 ^ (8 * i))) := by
  rw [toLeW, List.getElem?_map, List.getElem?_range hi, Option.map_some]

theorem toLeW_eq_reverse_toBeW (w : Nat) (x : Int) : toLeW w x = (toBeW w x).reverse := by
  refine List.ext_getElem (by simp only [List.length_reverse, toLeW_length, toBeW_length]) fun i hi _ => ?_
  have hplace : nb w - 1 - (nb w - 1 - i) = i := by
    rw [toLeW_length] at hi
    omega
  simp only [toLeW, toBeW, List.getElem_reverse, List.getElem_map, List.getElem_range, List.length_map,
    List.length_range, hplace]

theorem toBeW_eq_reverse_toLeW (w : Nat) (x : Int) : toBeW w x = (toLeW w x).reverse := by
  rw [toLeW_eq_reverse_toBeW, List.reverse_reverse]

/-! ## The sum of the octets of a value is the value (R96) -/

theorem eight_mul_nb (wd : Width) : 8 * nb wd.bits = wd.bits := by cases wd <;> rfl

/-- Each octet adds eight more bits of `v` to the sum. -/
theorem leSum_octets (v n : Nat) :
    leSum ((List.range n).map fun i => BitVec.ofNat 8 (v / 2 ^ (8 * i))) = v % 2 ^ (8 * n) := by
  induction n with
  | zero => rw [Nat.mul_zero, Nat.pow_zero, Nat.mod_one]; rfl
  | succ n ih =>
    rw [List.range_succ, List.map_append, leSum_append, ih, List.length_map, List.length_range, Nat.mul_succ,
      Nat.pow_add, Nat.mod_mul]
    rfl

theorem leSum_toLeW {w : Nat} (hw : 8 * nb w = w) (x : Int) : leSum (toLeW w x) = (maskW w x).toNat := by
  rw [toLeW, leSum_octets, hw, Nat.mod_eq_of_lt (maskW w x).isLt]

theorem beSum_toBeW {w : Nat} (hw : 8 * nb w = w) (x : Int) : beSum (toBeW w x) = (maskW w x).toNat := by
  rw [beSum_eq_leSum_reverse, ← toLeW_eq_reverse_toBeW, leSum_toLeW hw]

/-- The octets of a W-bit value are the NB(W) octets with that sum. -/
theorem toLeW_eq_of_leSum_eq {w : Nat} (hw : 8 * nb w = w) {v : BitVec w} {cs : List Octet} (hlen : cs.length = nb w)
    (hsum : leSum cs = v.toNat) : toLeW w v.toNat = cs := by
  refine eq_of_leSum_eq ((toLeW_length w _).trans hlen.symm) ?_
  rw [leSum_toLeW hw, maskW_natCast_toNat, hsum]

theorem toBeW_eq_of_beSum_eq {w : Nat} (hw : 8 * nb w = w) {v : BitVec w} {cs : List Octet} (hlen : cs.length = nb w)
    (hsum : beSum cs = v.toNat) : toBeW w v.toNat = cs := by
  rw [beSum_eq_leSum_reverse] at hsum
  rw [toBeW_eq_reverse_toLeW, toLeW_eq_of_leSum_eq hw (by rwa [List.length_reverse]) hsum, List.reverse_reverse]

/-! ## The octets a parse reads (R22, R95) -/

/-- The `n` octets from `off` on; a place outside the sequence reads as 0, which no parse meets (R95). -/
def octetsFrom (m : Memory) (off n : Nat) : List Octet := (List.range n).map fun i => (octetAt m (off + i)).getD 0#8

@[simp] theorem octetsFrom_length (m : Memory) (off n : Nat) : (octetsFrom m off n).length = n := by simp [octetsFrom]

theorem octetsFrom_add (m : Memory) (off j k : Nat) :
    octetsFrom m off (j + k) = octetsFrom m off j ++ octetsFrom m (off + j) k := by
  simp [octetsFrom, List.range_add, add_assoc]

theorem memRead_eq_octetsFrom {m : Memory} {off n : Nat} (h : off + n ≤ m.length) :
    memRead m off n = some (octetsFrom m off n) := by
  have hread := memRead_of_le h
  obtain ⟨_, _, hlen⟩ := memRead_inv hread
  rw [hread, Option.some_inj]
  refine List.ext_getElem (by rw [hlen, octetsFrom_length]) fun i hi _ => ?_
  have hoctet := memRead_getElem? hread (hlen ▸ hi)
  rw [List.getElem?_eq_getElem hi] at hoctet
  simp only [octetsFrom, List.getElem_map, List.getElem_range, ← hoctet, Option.getD_some]

theorem memRead_of_length_lt {m : Memory} {off n : Nat} (h : m.length < off + n) : memRead m off n = none :=
  if_pos (by omega)

/-- A read finds a sequence wherever it stands. -/
theorem memRead_append (p cs q : Memory) : memRead (p ++ cs ++ q) p.length cs.length = some cs := by
  rw [memRead_of_le (by simp), List.append_assoc, List.drop_left, List.take_left]

section Parse

variable {w : Nat} {sum : List Octet → Nat} {m : Memory} {off : Nat}

theorem parseW_of_memRead {cs : List Octet} (h : memRead m off (nb w) = some cs) :
    parseW w sum m off = .ok (BitVec.ofNat w (sum cs)) := by
  rw [parseW, h]

theorem parseW_of_le (h : off + nb w ≤ m.length) :
    parseW w sum m off = .ok (BitVec.ofNat w (sum (octetsFrom m off (nb w)))) :=
  parseW_of_memRead (memRead_eq_octetsFrom h)

theorem parseW_of_length_lt (h : m.length < off + nb w) : parseW w sum m off = .error .insufficientData := by
  rw [parseW, memRead_of_length_lt h]

theorem parseW_append (p : Memory) {cs : List Octet} (q : Memory) (hlen : cs.length = nb w) :
    parseW w sum (p ++ cs ++ q) p.length = .ok (BitVec.ofNat w (sum cs)) :=
  parseW_of_memRead (hlen ▸ memRead_append p cs q)

theorem parseW_whole {cs : List Octet} (hlen : cs.length = nb w) :
    parseW w sum cs 0 = .ok (BitVec.ofNat w (sum cs)) := by
  have h := parseW_append (sum := sum) [] [] hlen
  rwa [List.nil_append, List.append_nil] at h

/-- A sum that fits in W bits is the value of the parse. -/
theorem exists_parseW_of_le (hfit : sum (octetsFrom m off (nb w)) < 2 ^ w) (h : off + nb w ≤ m.length) :
    ∃ v : BitVec w, parseW w sum m off = .ok v ∧ v.toNat = sum (octetsFrom m off (nb w)) :=
  ⟨_, parseW_of_le h, by rw [BitVec.toNat_ofNat, Nat.mod_eq_of_lt hfit]⟩

end Parse

theorem leSum_lt_two_pow {w : Nat} (hw : 8 * nb w = w) {cs : List Octet} (hlen : cs.length = nb w) : leSum cs < 2 ^ w := by
  have hlt := leSum_lt cs
  rwa [hlen, hw] at hlt

theorem beSum_lt_two_pow {w : Nat} (hw : 8 * nb w = w) {cs : List Octet} (hlen : cs.length = nb w) : beSum cs < 2 ^ w := by
  have hlt := beSum_lt cs
  rwa [hlen, hw] at hlt

/-- Settles O34: the reversal, and the two sums of a reversed sequence. -/
theorem littleEndianIsBigEndianReversed : Obligations.LittleEndianIsBigEndianReversed := by
  intro wd x
  refine ⟨toLeW_eq_reverse_toBeW _ x, ?_⟩
  rw [fromLeW, fromBeW, parseW_whole (toBeW_length _ x), parseW_whole (toLeW_length _ x), beSum_eq_leSum_reverse,
    ← toBeW_eq_reverse_toLeW]

/-- Settles O33: a parse reads back the octets, whose sum is the masked value; and the octets of a sum are the ones summed. -/
theorem codecRoundTrip : Obligations.CodecRoundTrip := by
  intro wd
  have hw := eight_mul_nb wd
  refine ⟨fun x p q => ⟨?_, ?_⟩, fun m hm => ⟨⟨_, parseW_whole hm, toBeW_eq_of_beSum_eq hw hm ?_⟩,
    ⟨_, parseW_whole hm, toLeW_eq_of_leSum_eq hw hm ?_⟩⟩⟩
  · rw [fromBeW, parseW_append p q (toBeW_length _ x), beSum_toBeW hw, BitVec.ofNat_toNat, BitVec.setWidth_eq]
  · rw [fromLeW, parseW_append p q (toLeW_length _ x), leSum_toLeW hw, BitVec.ofNat_toNat, BitVec.setWidth_eq]
  · rw [BitVec.toNat_ofNat, Nat.mod_eq_of_lt (beSum_lt_two_pow hw hm)]
  · rw [BitVec.toNat_ofNat, Nat.mod_eq_of_lt (leSum_lt_two_pow hw hm)]

/-! ## The codec of a pair of halves is the 64-bit codec of its value (R118 to R122) -/

theorem w64ToLe_eq_toLeW (x : Wide64) : w64ToLe x = toLeW 64 (wideVal x).toNat := by
  refine (toLeW_eq_of_leSum_eq rfl (w64ToLe_length x) ?_).symm
  rw [w64ToLe, leSum_append, leSum_toLeW rfl, leSum_toLeW rfl, maskW_natCast_toNat, maskW_natCast_toNat, toLeW_length,
    wideVal_toNat, Nat.add_comm, Nat.mul_comm]
  rfl

theorem w64ToBe_eq_toBeW (x : Wide64) : w64ToBe x = toBeW 64 (wideVal x).toNat := by
  rw [toBeW_eq_reverse_toLeW, ← w64ToLe_eq_toLeW, w64ToLe, List.reverse_append, ← toBeW_eq_reverse_toLeW,
    ← toBeW_eq_reverse_toLeW, w64ToBe]

/-- The low half must fit its 32 bits; what the high half loses, the 64 bits lose too. -/
theorem wideVal_ofNat_halves (h : Nat) {l : Nat} (hl : l < 2 ^ 32) :
    wideVal ⟨BitVec.ofNat 32 h, BitVec.ofNat 32 l⟩ = BitVec.ofNat 64 (h * 2 ^ 32 + l) := by
  apply BitVec.eq_of_toNat_eq
  rw [wideVal_toNat, BitVec.toNat_ofNat, BitVec.toNat_ofNat, BitVec.toNat_ofNat]
  omega

theorem w64Parse_of_le {m : Memory} {off : Nat} (h : off + 8 ≤ m.length) (hi lo : BitVec 32) :
    w64Parse m off (.ok hi) (.ok lo) = .ok ⟨hi, lo⟩ := by
  simp only [w64Parse, if_neg (show ¬ (m.length : Int) - off < 8 by omega)]

theorem w64Parse_of_length_lt {m : Memory} {off : Nat} (h : m.length < off + 8) (hi lo : Except ErrorKind (BitVec 32)) :
    w64Parse m off hi lo = .error .insufficientData := by
  simp only [w64Parse, if_pos (show (m.length : Int) - off < 8 by omega)]

/-- With eight octets present both 32-bit parses succeed, on the octets that the 64-bit parse reads (R120). -/
theorem map_wideVal_w64FromBe (m : Memory) (off : Nat) : (w64FromBe m off).map wideVal = fromBeW 64 m off := by
  by_cases h : off + 8 ≤ m.length
  · have hhigh : fromBeW 32 m off = .ok (BitVec.ofNat 32 (beSum (octetsFrom m off 4))) :=
      parseW_of_le (show off + 4 ≤ m.length by omega)
    have hlow : fromBeW 32 m (off + 4) = .ok (BitVec.ofNat 32 (beSum (octetsFrom m (off + 4) 4))) :=
      parseW_of_le (show off + 4 + 4 ≤ m.length by omega)
    have hwide : fromBeW 64 m off = .ok (BitVec.ofNat 64 (beSum (octetsFrom m off (4 + 4)))) := parseW_of_le h
    rw [w64FromBe, hhigh, hlow, w64Parse_of_le h, hwide, octetsFrom_add, beSum_append, octetsFrom_length, Except.map,
      wideVal_ofNat_halves _ (beSum_lt_two_pow rfl (octetsFrom_length m (off + 4) 4))]
  · have hshort : m.length < off + 8 := by omega
    rw [w64FromBe, w64Parse_of_length_lt hshort, fromBeW, parseW_of_length_lt hshort, Except.map]

/-- As `map_wideVal_w64FromBe`, with the low half first (R121). -/
theorem map_wideVal_w64FromLe (m : Memory) (off : Nat) : (w64FromLe m off).map wideVal = fromLeW 64 m off := by
  by_cases h : off + 8 ≤ m.length
  · have hlow : fromLeW 32 m off = .ok (BitVec.ofNat 32 (leSum (octetsFrom m off 4))) :=
      parseW_of_le (show off + 4 ≤ m.length by omega)
    have hhigh : fromLeW 32 m (off + 4) = .ok (BitVec.ofNat 32 (leSum (octetsFrom m (off + 4) 4))) :=
      parseW_of_le (show off + 4 + 4 ≤ m.length by omega)
    have hwide : fromLeW 64 m off = .ok (BitVec.ofNat 64 (leSum (octetsFrom m off (4 + 4)))) := parseW_of_le h
    rw [w64FromLe, hhigh, hlow, w64Parse_of_le h, hwide, octetsFrom_add, leSum_append, octetsFrom_length, Except.map,
      wideVal_ofNat_halves _ (leSum_lt_two_pow rfl (octetsFrom_length m off 4)), Nat.add_comm, Nat.mul_comm]
  · have hshort : m.length < off + 8 := by omega
    rw [w64FromLe, w64Parse_of_length_lt hshort, fromLeW, parseW_of_length_lt hshort, Except.map]

/-! ## TOBE and TOLE at the ports -/

/-- Inside the low W bits of A an octet of the mask is an octet of A. -/
theorem extractLsb'_maskW_intA {w k : Nat} (hw : w ≤ 64) (hk : k + 8 ≤ w) (s : State) :
    (maskW w (intA s)).extractLsb' k 8 = s.inp.a.extractLsb' k 8 := by
  rw [maskW_intA hw, BitVec.extractLsb'_extractLsb'_of_le hk]

theorem toBeW_intA {w : Nat} (hw : w ≤ 64) (s : State) :
    toBeW w (intA s) = (List.range (nb w)).map fun i => s.inp.a.extractLsb' (8 * (nb w - 1 - i)) 8 := by
  rw [toBeW_eq_map_extractLsb']
  refine List.map_congr_left fun i hi => extractLsb'_maskW_intA hw ?_ s
  have hlt : i < w / 8 := List.mem_range.mp hi
  rw [nb]
  omega

theorem toLeW_intA {w : Nat} (hw : w ≤ 64) (s : State) :
    toLeW w (intA s) = (List.range (nb w)).map fun i => s.inp.a.extractLsb' (8 * i) 8 := by
  rw [toLeW_eq_map_extractLsb']
  refine List.map_congr_left fun i hi => extractLsb'_maskW_intA hw ?_ s
  have hlt : i < w / 8 := List.mem_range.mp hi
  omega

theorem replyOctets_toBeW {w : Nat} (hw : w ≤ 64) (s : State) :
    replyOctets s (toBeW w (intA s)) = .next (s.answered
      ⟨.ok, 0#64, (List.range (nb w)).map fun i => s.inp.a.extractLsb' (8 * (nb w - 1 - i)) 8⟩) := by
  rw [replyOctets_eq, toBeW_intA hw, Response.octets]

theorem replyOctets_toLeW {w : Nat} (hw : w ≤ 64) (s : State) :
    replyOctets s (toLeW w (intA s)) =
      .next (s.answered ⟨.ok, 0#64, (List.range (nb w)).map fun i => s.inp.a.extractLsb' (8 * i) 8⟩) := by
  rw [replyOctets_eq, toLeW_intA hw, Response.octets]

theorem w64ToBe_wideA (s : State) : w64ToBe (wideA s) = toBeW 64 (intA s) := by
  rw [w64ToBe_eq_toBeW, wideVal_wideA, intA]

theorem w64ToLe_wideA (s : State) : w64ToLe (wideA s) = toLeW 64 (intA s) := by
  rw [w64ToLe_eq_toLeW, wideVal_wideA, intA]

theorem exec_tobe64 (s : State) : exec .tobe64 s = replyOctets s (toBeW 64 (intA s)) :=
  congrArg (replyOctets s) (w64ToBe_wideA s)

theorem exec_tole64 (s : State) : exec .tole64 s = replyOctets s (toLeW 64 (intA s)) :=
  congrArg (replyOctets s) (w64ToLe_wideA s)

/-- Settles O29: the bytes, the octet formula, and the three commands. -/
theorem tobeCommandsMostSignificantFirst : Obligations.TobeCommandsMostSignificantFirst :=
  ⟨by decide, by decide, by decide,
    fun w x => ⟨toBeW_length w x, fun _ hi => ⟨_, getElem?_toBeW x hi, BitVec.toNat_ofNat _ _⟩⟩,
    fun s => ⟨replyOctets_toBeW (by decide) s, replyOctets_toBeW (by decide) s,
      (exec_tobe64 s).trans (replyOctets_toBeW (by decide) s)⟩⟩

/-- Settles O30, as O29. -/
theorem toleCommandsLeastSignificantFirst : Obligations.ToleCommandsLeastSignificantFirst :=
  ⟨by decide, by decide, by decide,
    fun w x => ⟨toLeW_length w x, fun _ hi => ⟨_, getElem?_toLeW x hi, BitVec.toNat_ofNat _ _⟩⟩,
    fun s => ⟨replyOctets_toLeW (by decide) s, replyOctets_toLeW (by decide) s,
      (exec_tole64 s).trans (replyOctets_toLeW (by decide) s)⟩⟩

/-! ## FROMBE and FROMLE at the ports -/

/-- A 64-bit result goes on R as it is, so a pair is reported as its value is. -/
theorem replyTryWide_eq_replyTryBits (s : State) (o : Except ErrorKind Wide64) :
    replyTryWide s o = replyTryBits s (o.map wideVal) := by
  cases o with
  | ok x => rw [replyTryWide_ok, Except.map, replyTryBits_ok, BitVec.setWidth_eq]
  | error e => rfl

theorem exec_frombe64 (s : State) : exec .frombe64 s = replyTryBits s (fromBeW 64 (bytes s) (offset s)) := by
  rw [← map_wideVal_w64FromBe, ← replyTryWide_eq_replyTryBits]
  rfl

theorem exec_fromle64 (s : State) : exec .fromle64 s = replyTryBits s (fromLeW 64 (bytes s) (offset s)) := by
  rw [← map_wideVal_w64FromLe, ← replyTryWide_eq_replyTryBits]
  rfl

section Ports

variable {w : Nat} {sum : List Octet → Nat} {s : State}

/-- A parse that reads octets with the sum `v` answers `v`. -/
theorem replyTryBits_parseW_of_le (h : s.inp.off.toNat + nb w ≤ s.inp.buf.length) {v : BitVec w}
    (hv : v.toNat = sum (octetsFrom s.inp.buf s.inp.off.toNat (nb w))) :
    replyTryBits s (parseW w sum (bytes s) (offset s)) = .next (s.answered (.int (v.setWidth 64))) := by
  rw [bytes, offset, parseW_of_le h, ← hv, BitVec.ofNat_toNat, BitVec.setWidth_eq, replyTryBits_ok]

theorem replyTryBits_parseW_of_length_lt (h : s.inp.buf.length < s.inp.off.toNat + nb w) :
    replyTryBits s (parseW w sum (bytes s) (offset s)) = .next (s.answered ⟨.insufficientData, 0#64, []⟩) := by
  rw [bytes, offset, parseW_of_length_lt h, replyTryBits_error]
  rfl

end Ports

/-- Bits put below a value make it one octet longer; so octets put one below the other are their little-endian sum. -/
theorem toNat_append_octet {n : Nat} (v : BitVec n) (c : Octet) : (v ++ c).toNat = c.toNat + 2 ^ 8 * v.toNat := by
  rw [BitVec.toNat_append, ← Nat.shiftLeft_add_eq_or_of_lt c.isLt, Nat.shiftLeft_eq, Nat.add_comm, Nat.mul_comm]

theorem toNat_append_two (c₀ c₁ : Octet) : (c₁ ++ c₀).toNat = leSum [c₀, c₁] := by
  simp only [toNat_append_octet, leSum, Nat.mul_zero, Nat.add_zero]

theorem toNat_append_four (c₀ c₁ c₂ c₃ : Octet) : (c₃ ++ c₂ ++ c₁ ++ c₀).toNat = leSum [c₀, c₁, c₂, c₃] := by
  simp only [toNat_append_octet, leSum, Nat.mul_zero, Nat.add_zero]

theorem toNat_append_eight (c₀ c₁ c₂ c₃ c₄ c₅ c₆ c₇ : Octet) :
    (c₇ ++ c₆ ++ c₅ ++ c₄ ++ c₃ ++ c₂ ++ c₁ ++ c₀).toNat = leSum [c₀, c₁, c₂, c₃, c₄, c₅, c₆, c₇] := by
  simp only [toNat_append_octet, leSum, Nat.mul_zero, Nat.add_zero]

/-- Settles O31: the check and the sum of R93, then the three commands on either side of OFF + NB(W) = LEN; the octets put
one below the other in BUF's order have the sum of the reversed sequence. -/
theorem frombeCommandsReadMostSignificantFirst : Obligations.FrombeCommandsReadMostSignificantFirst := by
  refine ⟨by decide, by decide, by decide, fun wd m off => ⟨fun hshort => parseW_of_length_lt (by omega), fun hlong => ?_⟩,
    fun s => ?_⟩
  · rw [← beSum_map_range]
    exact exists_parseW_of_le (beSum_lt_two_pow (eight_mul_nb wd) (octetsFrom_length _ _ _)) (by omega)
  · intro c
    refine ⟨fun h => replyTryBits_parseW_of_le h ?_, fun h => replyTryBits_parseW_of_length_lt (w := 16) h,
      fun h => replyTryBits_parseW_of_le h ?_, fun h => replyTryBits_parseW_of_length_lt (w := 32) h,
      fun h => (exec_frombe64 s).trans (replyTryBits_parseW_of_le h ?_),
      fun h => (exec_frombe64 s).trans (replyTryBits_parseW_of_length_lt h)⟩
    · rw [beSum_eq_leSum_reverse]
      exact toNat_append_two _ _
    · rw [beSum_eq_leSum_reverse]
      exact toNat_append_four _ _ _ _
    · rw [beSum_eq_leSum_reverse]
      exact toNat_append_eight _ _ _ _ _ _ _ _

/-- Settles O32, as O31; the octets put one below the other from the last to the first have the sum of the sequence. -/
theorem fromleCommandsReadLeastSignificantFirst : Obligations.FromleCommandsReadLeastSignificantFirst := by
  refine ⟨by decide, by decide, by decide, fun wd m off => ⟨fun hshort => parseW_of_length_lt (by omega), fun hlong => ?_⟩,
    fun s => ?_⟩
  · rw [← leSum_map_range]
    exact exists_parseW_of_le (leSum_lt_two_pow (eight_mul_nb wd) (octetsFrom_length _ _ _)) (by omega)
  · intro c
    exact ⟨fun h => replyTryBits_parseW_of_le h (toNat_append_two _ _), fun h => replyTryBits_parseW_of_length_lt (w := 16) h,
      fun h => replyTryBits_parseW_of_le h (toNat_append_four _ _ _ _),
      fun h => replyTryBits_parseW_of_length_lt (w := 32) h,
      fun h => (exec_fromle64 s).trans (replyTryBits_parseW_of_le h (toNat_append_eight _ _ _ _ _ _ _ _)),
      fun h => (exec_fromle64 s).trans (replyTryBits_parseW_of_length_lt h)⟩

end Sys2Proof.Machine

end

/-! # The composite 64-bit layer: family 45_wide64_composite.md (O44, O45, O46, O47, O48, O55) -/

section

namespace Sys2Proof.Machine

/-! ## The bitwise operators and the adder on halves are the generic ones at W = 64 (R107 to R110, R116, R117, R122) -/

section Agreement

variable (x y : Wide64)

theorem wideVal_w64Mask_eq_maskW : wideVal (w64Mask x) = maskW 64 (wideVal x).toNat := by
  rw [maskW_natCast_toNat, w64Mask]

theorem wideVal_w64And_eq_andW : wideVal (w64And x y) = andW 64 (wideVal x).toNat (wideVal y).toNat := by
  rw [wideVal_w64And, andW, maskW_natCast_toNat, maskW_natCast_toNat]

theorem wideVal_w64Or_eq_orW : wideVal (w64Or x y) = orW 64 (wideVal x).toNat (wideVal y).toNat := by
  rw [wideVal_w64Or, orW, maskW_natCast_toNat, maskW_natCast_toNat]

theorem wideVal_w64Xor_eq_xorW : wideVal (w64Xor x y) = xorW 64 (wideVal x).toNat (wideVal y).toNat := by
  rw [wideVal_w64Xor, xorW, maskW_natCast_toNat, maskW_natCast_toNat]

theorem wideVal_w64Not_eq_notW : wideVal (w64Not x) = notW 64 (wideVal x).toNat := by
  rw [wideVal_w64Not, notW_eq_not_maskW, maskW_natCast_toNat]

theorem wideVal_w64Add_eq_addW : wideVal (w64Add x y) = addW 64 (wideVal x).toNat (wideVal y).toNat := by
  rw [wideVal_w64Add, addW_eq_add, maskW_natCast_toNat, maskW_natCast_toNat]

/-! ## The shifts of a pair of halves are the generic ones at W = 64, their check included (R111 to R113, R122) -/

/-- Both shifts test the same amount, so functions that agree at every amount make shifts that agree (R65). -/
theorem map_wideVal_shiftChecked {f : Nat → Wide64} {g : Nat → BitVec 64} (hfg : ∀ k, wideVal (f k) = g k) (n : Int) :
    (shiftChecked n f).map wideVal = shiftChecked n g := by
  rw [map_shiftChecked, show wideVal ∘ f = g from funext hfg]

theorem map_wideVal_w64Lshift (n : Int) : (w64Lshift x n).map wideVal = lshiftW 64 (wideVal x).toNat n :=
  map_wideVal_shiftChecked
    (fun k => by rw [wideVal_w64LshiftBy, lshiftBy_eq_shiftLeft, maskW_natCast_toNat]) n

theorem map_wideVal_w64Rshift (n : Int) : (w64Rshift x n).map wideVal = rshiftW 64 (wideVal x).toNat n :=
  map_wideVal_shiftChecked
    (fun k => by rw [wideVal_w64RshiftBy, rshiftBy_eq_ushiftRight, maskW_natCast_toNat]) n

theorem map_wideVal_w64Arshift (n : Int) : (w64Arshift x n).map wideVal = arshiftW 64 (wideVal x).toNat n :=
  map_wideVal_shiftChecked
    (fun k => by rw [wideVal_w64ArshiftBy, arshiftBy_eq_sshiftRight, maskW_natCast_toNat]) n

end Agreement

/-! ## The agreement on functions (R122) -/

/-- Settles O44, one operator after the other. -/
theorem compositeBitwiseAgreesWithGeneric : Obligations.CompositeBitwiseAgreesWithGeneric := fun x y =>
  ⟨wideVal_w64And_eq_andW x y, wideVal_w64Or_eq_orW x y, wideVal_w64Xor_eq_xorW x y, wideVal_w64Not_eq_notW x,
    wideVal_w64Mask_eq_maskW x⟩

/-- Settles O45: both sums are the sum of the values, the carry of the low halves included. -/
theorem compositeAddAgreesWithGeneric : Obligations.CompositeAddAgreesWithGeneric := wideVal_w64Add_eq_addW

/-- Settles O46, one shift after the other. -/
theorem compositeShiftsAgreeWithGeneric : Obligations.CompositeShiftsAgreeWithGeneric := fun x n =>
  ⟨map_wideVal_w64Lshift x n, map_wideVal_w64Rshift x n, map_wideVal_w64Arshift x n⟩

/-- Settles O47 by the two rotates of a pair of halves. -/
theorem compositeRotatesAgreeWithGeneric : Obligations.CompositeRotatesAgreeWithGeneric := fun x n =>
  ⟨wideVal_w64Rol x n, wideVal_w64Ror x n⟩

/-- Settles O48: the octets of a pair of halves, and the two parses. -/
theorem compositeCodecAgreesWithGeneric : Obligations.CompositeCodecAgreesWithGeneric :=
  ⟨fun x => ⟨w64ToBe_eq_toBeW x, w64ToLe_eq_toLeW x⟩,
    fun m off => ⟨map_wideVal_w64FromBe m off, map_wideVal_w64FromLe m off⟩⟩

/-! ## The agreement at the ports (R5, R122)

The integer on a port is the value of the pair of halves on it, and a pair is reported as its value is; so a 64-bit command,
which runs the composite definition, replies as the generic one says. -/

section Ports

variable (s : State)

theorem intA_eq_wideVal : intA s = (wideVal (wideA s)).toNat := by rw [wideVal_wideA, intA]

theorem intB_eq_wideVal : intB s = (wideVal (wideB s)).toNat := by rw [wideVal_wideB, intB]

theorem replyWide_eq_replyBits (x : Wide64) : replyWide s x = replyBits s (wideVal x) := by
  rw [replyWide_eq, replyBits_eq, BitVec.setWidth_eq]

theorem replyWide_w64Mask_eq_maskW : replyWide s (w64Mask (wideA s)) = replyBits s (maskW 64 (intA s)) := by
  rw [replyWide_eq_replyBits, wideVal_w64Mask_eq_maskW, intA_eq_wideVal]

theorem replyWide_w64And_eq_andW :
    replyWide s (w64And (wideA s) (wideB s)) = replyBits s (andW 64 (intA s) (intB s)) := by
  rw [replyWide_eq_replyBits, wideVal_w64And_eq_andW, intA_eq_wideVal, intB_eq_wideVal]

theorem replyWide_w64Or_eq_orW :
    replyWide s (w64Or (wideA s) (wideB s)) = replyBits s (orW 64 (intA s) (intB s)) := by
  rw [replyWide_eq_replyBits, wideVal_w64Or_eq_orW, intA_eq_wideVal, intB_eq_wideVal]

theorem replyWide_w64Xor_eq_xorW :
    replyWide s (w64Xor (wideA s) (wideB s)) = replyBits s (xorW 64 (intA s) (intB s)) := by
  rw [replyWide_eq_replyBits, wideVal_w64Xor_eq_xorW, intA_eq_wideVal, intB_eq_wideVal]

theorem replyWide_w64Not_eq_notW : replyWide s (w64Not (wideA s)) = replyBits s (notW 64 (intA s)) := by
  rw [replyWide_eq_replyBits, wideVal_w64Not_eq_notW, intA_eq_wideVal]

theorem replyWide_w64Add_eq_addW :
    replyWide s (w64Add (wideA s) (wideB s)) = replyBits s (addW 64 (intA s) (intB s)) := by
  rw [replyWide_eq_replyBits, wideVal_w64Add_eq_addW, intA_eq_wideVal, intB_eq_wideVal]

theorem replyTryWide_w64Lshift_eq_lshiftW (n : Int) :
    replyTryWide s (w64Lshift (wideA s) n) = replyTryBits s (lshiftW 64 (intA s) n) := by
  rw [replyTryWide_eq_replyTryBits, map_wideVal_w64Lshift, intA_eq_wideVal]

theorem replyTryWide_w64Rshift_eq_rshiftW (n : Int) :
    replyTryWide s (w64Rshift (wideA s) n) = replyTryBits s (rshiftW 64 (intA s) n) := by
  rw [replyTryWide_eq_replyTryBits, map_wideVal_w64Rshift, intA_eq_wideVal]

theorem replyTryWide_w64Arshift_eq_arshiftW (n : Int) :
    replyTryWide s (w64Arshift (wideA s) n) = replyTryBits s (arshiftW 64 (intA s) n) := by
  rw [replyTryWide_eq_replyTryBits, map_wideVal_w64Arshift, intA_eq_wideVal]

theorem replyWide_w64Rol_eq_rolW (n : Int) :
    replyWide s (w64Rol (wideA s) n) = replyBits s (rolW 64 (intA s) n) := by
  rw [replyWide_eq_replyBits, wideVal_w64Rol, intA_eq_wideVal]

theorem replyWide_w64Ror_eq_rorW (n : Int) :
    replyWide s (w64Ror (wideA s) n) = replyBits s (rorW 64 (intA s) n) := by
  rw [replyWide_eq_replyBits, wideVal_w64Ror, intA_eq_wideVal]

end Ports

/-- Settles O55: at W = 16 and 32 exec runs the generic definition itself; at W = 64 the composite one, which replies alike;
the last five operations have no generic rule. -/
theorem everyGenericDefinitionGivesTheAnswer : Obligations.EveryGenericDefinitionGivesTheAnswer := by
  intro i s o h
  cases i with
  | mask16 | and16 | or16 | xor16 | not16 | lshift16 | rshift16 | arshift16 | rol16 | ror16 | add16 | tobe16 | tole16
  | frombe16 | fromle16 | mask32 | and32 | or32 | xor32 | not32 | lshift32 | rshift32 | arshift32 | rol32 | ror32 | add32
  | tobe32 | tole32 | frombe32 | fromle32 =>
    cases h
    rfl
  | mask64 => cases h; exact replyWide_w64Mask_eq_maskW s
  | and64 => cases h; exact replyWide_w64And_eq_andW s
  | or64 => cases h; exact replyWide_w64Or_eq_orW s
  | xor64 => cases h; exact replyWide_w64Xor_eq_xorW s
  | not64 => cases h; exact replyWide_w64Not_eq_notW s
  | lshift64 => cases h; exact replyTryWide_w64Lshift_eq_lshiftW s _
  | rshift64 => cases h; exact replyTryWide_w64Rshift_eq_rshiftW s _
  | arshift64 => cases h; exact replyTryWide_w64Arshift_eq_arshiftW s _
  | rol64 => cases h; exact replyWide_w64Rol_eq_rolW s _
  | ror64 => cases h; exact replyWide_w64Ror_eq_rorW s _
  | add64 => cases h; exact replyWide_w64Add_eq_addW s
  | tobe64 => cases h; exact exec_tobe64 s
  | tole64 => cases h; exact exec_tole64 s
  | frombe64 => cases h; exact exec_frombe64 s
  | fromle64 => cases h; exact exec_fromle64 s
  | eq64 | iszero64 | tonum64 | tonums64 | fromnum64 => cases h

end Sys2Proof.Machine

end

/-! # Comparison and number conversion: family 46_wide64_convert_compare.md (O35, O36, O37, O38, O39, O40, O41) -/

section

namespace Sys2Proof.Machine

/-! ## Comparison (R130, R131) -/

section Compare

variable (x y : Wide64)

theorem w64Eq_iff_halves : w64Eq x y = true ↔ x.high = y.high ∧ x.low = y.low := by
  rw [w64Eq, Bool.and_eq_true, decide_eq_true_iff, decide_eq_true_iff]

/-- The halves are equal exactly when the values are, since the value determines its halves (R11). -/
theorem w64Eq_eq_decide_wideVal : w64Eq x y = decide (wideVal x = wideVal y) := by
  have hinj : wideVal x = wideVal y ↔ x = y := (Function.LeftInverse.injective widePair_wideVal).eq_iff
  rw [Bool.eq_iff_iff, w64Eq_iff_halves, decide_eq_true_iff, hinj, Wide64.mk.injEq]

theorem w64IsZero_iff_halves : w64IsZero x = true ↔ x.high = 0#32 ∧ x.low = 0#32 := by
  rw [w64IsZero, Bool.and_eq_true, decide_eq_true_iff, decide_eq_true_iff]

theorem w64IsZero_eq_w64Eq_zero : w64IsZero x = w64Eq x ⟨0#32, 0#32⟩ := rfl

theorem w64IsZero_eq_decide_wideVal : w64IsZero x = decide (wideVal x = 0#64) := by
  rw [w64IsZero_eq_w64Eq_zero, w64Eq_eq_decide_wideVal]
  rfl

end Compare

/-- A test whose value is that of the proposition `p` answers 1 where `p` holds and 0 elsewhere (R36). -/
theorem replyBool_decide (s : State) (p : Prop) [Decidable p] :
    (p → replyBool s (decide p) = .next (s.answered (.int 1#64))) ∧
      (¬p → replyBool s (decide p) = .next (s.answered (.int 0#64))) :=
  ⟨fun h => by rw [decide_eq_true h]; rfl, fun h => by rw [decide_eq_false h]; rfl⟩

theorem exec_eq64 (s : State) : exec .eq64 s = replyBool s (decide (s.inp.a = s.inp.b)) := by
  rw [← wideVal_wideA s, ← wideVal_wideB s, ← w64Eq_eq_decide_wideVal]
  rfl

theorem exec_iszero64 (s : State) : exec .iszero64 s = replyBool s (decide (s.inp.a = 0#64)) := by
  rw [← wideVal_wideA s, ← w64IsZero_eq_decide_wideVal]
  rfl

/-- Settles O35: the byte, the comparison of the halves, and the command, which tests A = B. -/
theorem eqCommandComparesAllBits : Obligations.EqCommandComparesAllBits :=
  ⟨by decide, w64Eq_iff_halves, fun s => exec_eq64 s ▸ replyBool_decide s (s.inp.a = s.inp.b)⟩

/-- Settles O36, as O35 with B = 0. -/
theorem iszeroCommandTestsAllBits : Obligations.IszeroCommandTestsAllBits :=
  ⟨by decide, fun x => ⟨w64IsZero_iff_halves x, w64IsZero_eq_w64Eq_zero x⟩,
    fun s => exec_iszero64 s ▸ replyBool_decide s (s.inp.a = 0#64)⟩

/-! ## Numbers and pairs of halves (R133 to R135) -/

theorem numberOf_eq_wideVal (x : Wide64) : numberOf x = wideVal x := by
  rw [numberOf, ← wideVal_toNat, BitVec.ofNat_toNat, BitVec.setWidth_eq]

/-- Splitting a number at 2^32 cuts its bits at bit 32. -/
theorem w64FromNumber_eq_widePair (v : BitVec 64) : w64FromNumber v = widePair v := by
  rw [w64FromNumber, ← widePair_high_toNat, ← widePair_low_toNat]
  simp only [BitVec.ofNat_toNat, BitVec.setWidth_eq]

/-! ## The threshold 2^53 - 1 (R133, R134, 90_conflicts.md C6) -/

section Threshold

variable {x : Wide64}

theorem exceedsExact_eq_true_iff : exceedsExact x = true ↔ 0x001FFFFF < x.high.toNat := decide_eq_true_iff

theorem exceedsExact_eq_false_iff : exceedsExact x = false ↔ x.high.toNat ≤ 0x001FFFFF :=
  decide_eq_false_iff_not.trans Nat.not_lt

/-- The low half cannot carry the value over a multiple of 2^32, so the test on the high half is one on the value. -/
theorem lt_high_iff_le_value (x : Wide64) : 0x001FFFFF < x.high.toNat ↔ 2 ^ 53 ≤ x.high.toNat * 2 ^ 32 + x.low.toNat := by
  have hlow : x.low.toNat < 2 ^ 32 := x.low.isLt
  omega

theorem w64ToNumber_of_exact (h : x.high.toNat ≤ 0x001FFFFF) (u : BitVec 64) : w64ToNumber x u = wideVal x := by
  rw [w64ToNumber, exceedsExact_eq_false_iff.mpr h, if_neg Bool.false_ne_true, numberOf_eq_wideVal]

theorem w64ToNumberStrict_of_exact (h : x.high.toNat ≤ 0x001FFFFF) : w64ToNumberStrict x = .ok (wideVal x) := by
  rw [w64ToNumberStrict, exceedsExact_eq_false_iff.mpr h, if_neg Bool.false_ne_true, numberOf_eq_wideVal]

theorem w64ToNumberStrict_of_above (h : 0x001FFFFF < x.high.toNat) : w64ToNumberStrict x = .error .precisionExceeded := by
  rw [w64ToNumberStrict, exceedsExact_eq_true_iff.mpr h, if_pos rfl]

end Threshold

/-- On the port the test of the high half is that of A[63:53]. -/
theorem lt_high_wideA_iff (s : State) : 0x001FFFFF < (wideA s).high.toNat ↔ s.inp.a.extractLsb' 53 11 ≠ 0#11 :=
  exceedsExact_eq_true_iff.symm.trans (exceedsExact_widePair_iff s.inp.a)

theorem high_wideA_le_iff (s : State) : (wideA s).high.toNat ≤ 0x001FFFFF ↔ s.inp.a.extractLsb' 53 11 = 0#11 := by
  rw [← Nat.not_lt, lt_high_wideA_iff, not_not]

/-! ## The conversion commands -/

/-- Settles O38: a draw, and OK with the value drawn. -/
theorem tonumCommandDrawsAboveTheThreshold : Obligations.TonumCommandDrawsAboveTheThreshold :=
  fun _ ha => exec_tonum64_of_above ha

/-- Settles O37: up to the threshold the number is the value of the halves of A, that is A. -/
theorem tonumCommandIsExactUpToTheThreshold : Obligations.TonumCommandIsExactUpToTheThreshold :=
  ⟨by decide, fun s ha => by rw [exec_tonum64_of_exact ha, numberOf_eq_wideVal, wideVal_widePair]⟩

theorem exec_tonums64 (s : State) : exec .tonums64 s = replyTryBits s (w64ToNumberStrict (wideA s)) := rfl

/-- Settles O39: the threshold on the high half and on the value, the two outcomes, and the command on either side. -/
theorem tonumsCommandFailsFromTwoToTheFiftyThree : Obligations.TonumsCommandFailsFromTwoToTheFiftyThree := by
  refine ⟨by decide, fun x => ⟨lt_high_iff_le_value x, w64ToNumberStrict_of_above, fun hx => ?_⟩,
    fun s => ⟨fun ha => ?_, fun ha => ?_⟩⟩
  · exact ⟨wideVal x, w64ToNumberStrict_of_exact hx, wideVal_toNat x⟩
  · rw [exec_tonums64, w64ToNumberStrict_of_exact ((high_wideA_le_iff s).mpr ha), replyTryBits_ok, wideVal_wideA,
      BitVec.setWidth_eq]
  · rw [exec_tonums64, w64ToNumberStrict_of_above ((lt_high_wideA_iff s).mpr ha), replyTryBits_error]
    rfl

theorem exec_fromnum64 (s : State) : exec .fromnum64 s = replyWide s (w64FromNumber s.inp.a) := rfl

/-- Settles O40: the halves are those of the operand's bits, so the value reported is the operand. -/
theorem fromnumCommandReturnsItsOperand : Obligations.FromnumCommandReturnsItsOperand := by
  refine ⟨by decide, fun v => ?_, fun s => ?_⟩
  · rw [w64FromNumber_eq_widePair]
    exact ⟨widePair_high_toNat v, widePair_low_toNat v⟩
  · rw [exec_fromnum64, replyWide_eq, w64FromNumber_eq_widePair, wideVal_widePair]

/-! ## The conversions undo each other (R136) -/

/-- Settles O41: up to the threshold the conversions are the value of a pair and the pair of a value, inverse to each
other; the draw `u` is not reached. -/
theorem numberConversionLaws : Obligations.NumberConversionLaws := by
  intro u
  refine ⟨fun x hx => ⟨?_, ?_⟩, fun v hv => ?_⟩
  · rw [w64ToNumber_of_exact hx, w64FromNumber_eq_widePair, widePair_wideVal]
  · rw [w64ToNumberStrict_of_exact hx, w64ToNumber_of_exact hx]
  · have hhigh : (widePair v).high.toNat ≤ 0x001FFFFF := by
      rw [widePair_high_toNat]
      omega
    rw [w64FromNumber_eq_widePair, w64ToNumber_of_exact hhigh, wideVal_widePair]

end Sys2Proof.Machine

end

/-! # Errors and STATUS: family 60_exceptions.md (O9, O11, O53) -/

section

namespace Sys2Proof.Machine

/-! ## The causes of failure, one for each error kind (R147 to R149) -/

/-- The cause of each error kind, read on the ports, for the operation `op` at width `w`. -/
def Fails (op : Op) (w : Nat) (s : State) : ErrorKind → Prop
  | .invalidArgument   => (op = .lshift ∨ op = .rshift ∨ op = .arshift) ∧ s.inp.n.toInt < 0
  | .insufficientData  =>
      (op = .frombe ∨ op = .fromle) ∧ (s.inp.buf.length : Int) - (s.inp.off.toNat : Int) < (w / 8 : Nat)
  | .precisionExceeded => op = .tonums ∧ 0x001FFFFF < (s.inp.a.extractLsb' 32 32).toNat

section Causes

variable {op : Op} {w : Nat} {s : State} {e : ErrorKind}

theorem fails_iff_of_shift (hop : op = .lshift ∨ op = .rshift ∨ op = .arshift) :
    Fails op w s e ↔ amount s < 0 ∧ e = .invalidArgument := by
  obtain rfl | rfl | rfl := hop <;> cases e <;> simp [Fails, amount]

theorem fails_iff_of_parse (hop : op = .frombe ∨ op = .fromle) :
    Fails op w s e ↔ (bytes s).length < offset s + nb w ∧ e = .insufficientData := by
  have hroom : (s.inp.buf.length : Int) - s.inp.off.toNat < (w / 8 : Nat) ↔ (bytes s).length < offset s + nb w := by
    simp only [bytes, offset, nb]
    omega
  obtain rfl | rfl := hop <;> cases e <;> simp [Fails, ← hroom]

theorem fails_iff_of_tonums : Fails .tonums w s e ↔ 0x001FFFFF < (wideA s).high.toNat ∧ e = .precisionExceeded := by
  cases e <;> simp [Fails, wideA, widePair]

/-- The operations that can fail: the shifts, the parses and TONUMS. -/
def canFail (op : Op) : Bool :=
  op ∈ [.lshift, .rshift, .arshift, .frombe, .fromle, .tonums]

theorem canFail_of_fails (h : Fails op w s e) : canFail op = true := by
  cases e with
  | invalidArgument   => obtain ⟨rfl | rfl | rfl, _⟩ := h <;> rfl
  | insufficientData  => obtain ⟨rfl | rfl, _⟩ := h <;> rfl
  | precisionExceeded => obtain ⟨rfl, _⟩ := h; rfl

end Causes

/-! ## The outcomes of the abstract layer -/

/-- The outcome is an error exactly where there is a cause, and the error of that cause. -/
def FailsAs (cause : ErrorKind → Prop) (o : Except ErrorKind Value) : Prop := ∀ e, o = .error e ↔ cause e

theorem failsAs_ok {op : Op} (h : canFail op = false) (w : Nat) (s : State) (v : Value) :
    FailsAs (Fails op w s) (.ok v) :=
  fun _ => ⟨nofun, fun hfails => absurd (canFail_of_fails hfails) (Bool.eq_false_iff.mp h)⟩

theorem map_eq_error_iff {α β : Type} (f : α → β) (o : Except ErrorKind α) (e : ErrorKind) :
    o.map f = .error e ↔ o = .error e := by
  cases o <;> simp [Except.map]

theorem shiftChecked_eq_error_iff {α : Type} (n : Int) (f : Nat → α) (e : ErrorKind) :
    shiftChecked n f = .error e ↔ n < 0 ∧ e = .invalidArgument := by
  obtain hn | hn := lt_or_ge n 0
  · simp [shiftChecked_of_neg hn, hn, eq_comm]
  · simp [shiftChecked_of_nonneg hn, hn]

theorem parseW_eq_error_iff (w : Nat) (sum : List Octet → Nat) (m : Memory) (off : Nat) (e : ErrorKind) :
    parseW w sum m off = .error e ↔ m.length < off + nb w ∧ e = .insufficientData := by
  obtain h | h := lt_or_ge m.length (off + nb w)
  · simp [parseW_of_length_lt h, h, eq_comm]
  · simp [parseW_of_le h, h]

theorem w64ToNumberStrict_eq_error_iff (x : Wide64) (e : ErrorKind) :
    w64ToNumberStrict x = .error e ↔ 0x001FFFFF < x.high.toNat ∧ e = .precisionExceeded := by
  obtain h | h := lt_or_ge 0x001FFFFF x.high.toNat
  · simp [w64ToNumberStrict_of_above h, h, eq_comm]
  · simp [w64ToNumberStrict_of_exact h, h]

section Generic

variable {op : Op} (w : Nat) (s : State)

theorem failsAs_shift (hop : op = .lshift ∨ op = .rshift ∨ op = .arshift) (f : Nat → BitVec w) :
    FailsAs (Fails op w s) ((shiftChecked (amount s) f).map bitsValue) := fun e => by
  rw [map_eq_error_iff, shiftChecked_eq_error_iff, fails_iff_of_shift hop]

theorem failsAs_parse (hop : op = .frombe ∨ op = .fromle) (sum : List Octet → Nat) :
    FailsAs (Fails op w s) ((parseW w sum (bytes s) (offset s)).map bitsValue) := fun e => by
  rw [map_eq_error_iff, parseW_eq_error_iff, fails_iff_of_parse hop]

theorem failsAs_tonums : FailsAs (Fails .tonums w s) ((w64ToNumberStrict (wideA s)).map bitsValue) := fun e => by
  rw [map_eq_error_iff, w64ToNumberStrict_eq_error_iff, fails_iff_of_tonums]

end Generic

theorem genericOutcome_failsAs {op : Op} {w : Nat} {s : State} {o : Except ErrorKind Value}
    (h : genericOutcome w s op = some o) : FailsAs (Fails op w s) o := by
  cases op with
  | lshift | rshift | arshift => cases h; exact failsAs_shift w s (by decide) _
  | frombe | fromle => cases h; exact failsAs_parse w s (by decide) _
  | mask | and | or | xor | not | rol | ror | add | tobe | tole => cases h; exact failsAs_ok rfl w s _
  | eq | iszero | tonum | tonums | fromnum => cases h

/-! ## STATUS of every command (R145, R152) -/

/-- Every command replies with an outcome that fails by its causes: the 45 with a generic rule as that rule does (O55), the
other five by their definition on the halves. TONUM.64 may reply at the state after a draw. -/
theorem exec_failsAs (i : Instr) (s : State) :
    ∃ (u : State) (o : Except ErrorKind Value), exec i s = reply u o ∧ u.answers = s.answers ∧
      FailsAs (Fails i.op i.width.bits s) o := by
  cases hgen : genericOutcome i.width.bits s i.op with
  | some o => exact ⟨s, o, everyGenericDefinitionGivesTheAnswer i s o hgen, rfl, genericOutcome_failsAs hgen⟩
  | none =>
    cases i with
    | eq64 | iszero64 | fromnum64 => exact ⟨s, _, rfl, rfl, failsAs_ok rfl _ s _⟩
    | tonum64 =>
      cases hex : exceedsExact (wideA s) with
      | false => exact ⟨s, _, exec_tonum64_exact hex, rfl, failsAs_ok rfl _ s _⟩
      | true  => exact ⟨s.drawn, _, exec_tonum64_above hex, rfl, failsAs_ok rfl _ s _⟩
    | tonums64 => exact ⟨s, _, exec_tonums64 s, rfl, failsAs_tonums _ s⟩
    | _ => cases hgen

theorem statusOf_inj {e e' : ErrorKind} : statusOf e = statusOf e' ↔ e = e' := by cases e <;> cases e' <;> decide

theorem statusOf_ne_ok (e : ErrorKind) : statusOf e ≠ .ok := by cases e <;> decide

theorem statusOf_ne_illegalCommand (e : ErrorKind) : statusOf e ≠ .illegalCommand := by cases e <;> decide

theorem responseOf_status (v : Value) : (responseOf v).status = .ok := by cases v <;> rfl

/-- The STATUS of a reply is the code of the outcome's error, and no error has the code of an illegal byte. -/
theorem reply_status (s : State) (o : Except ErrorKind Value) :
    ∃ x : Response, reply s o = .next (s.answered x) ∧ (∀ e, x.status = statusOf e ↔ o = .error e) ∧
      x.status ≠ .illegalCommand := by
  cases o with
  | ok v =>
    refine ⟨responseOf v, reply_ok s v, fun e => ⟨fun h => ?_, nofun⟩, by rw [responseOf_status]; nofun⟩
    exact absurd (h.symm.trans (responseOf_status v)) (statusOf_ne_ok e)
  | error e =>
    refine ⟨.failed (statusOf e), reply_error s e, fun e' => ?_, statusOf_ne_illegalCommand e⟩
    rw [Except.error.injEq]
    exact statusOf_inj

theorem op_eq_tonums_iff (i : Instr) : i.op = .tonums ↔ i = .tonums64 := by cases i <;> decide

/-- Settles O11: the STATUS is that of the outcome, and the outcome fails by its causes. -/
theorem statusOfEveryCommand : Obligations.StatusOfEveryCommand := by
  intro i s
  obtain ⟨u, o, hexec, hans, hfails⟩ := exec_failsAs i s
  obtain ⟨x, hreply, hstatus, hlegal⟩ := reply_status u o
  have hcause (e : ErrorKind) : x.status = statusOf e ↔ Fails i.op i.width.bits s e := (hstatus e).trans (hfails e)
  refine ⟨u.answered x, x, hexec.trans hreply, by rw [State.answered_answers, hans], hcause .invalidArgument,
    hcause .insufficientData, ?_, hlegal⟩
  rw [← op_eq_tonums_iff]
  exact hcause .precisionExceeded

/-! ## Reset (R19, R165) -/

theorem answersLegal_of_nil {s : State} (h : s.answers = []) : s.answersLegal := by
  intro x hx
  rw [h] at hx
  exact absurd hx List.not_mem_nil

/-- Settles O9: both lists are empty, and no answer is an illegal one. -/
theorem resetHoldsNothing : Obligations.ResetHoldsNothing :=
  ⟨State.reset_pending, State.reset_answers, answersLegal_of_nil State.reset_answers⟩

/-! ## The codes of STATUS (R145) -/

/-- The table of R145 read from code to status; the codes 5, 6 and 7 have no row. -/
def statusOfCode (c : BitVec 3) : Option Status :=
  match c with
  | 0#3 => some .ok
  | 1#3 => some .invalidArgument
  | 2#3 => some .insufficientData
  | 3#3 => some .precisionExceeded
  | 4#3 => some .illegalCommand
  | _   => none

theorem statusOfCode_statusCode (x : Status) : statusOfCode (statusCode x) = some x := by cases x <;> rfl

theorem statusCode_ne_of_no_row {c : BitVec 3} (h : statusOfCode c = none) (x : Status) : statusCode x ≠ c := by
  rintro rfl
  cases (statusOfCode_statusCode x).symm.trans h

theorem statusCode_injective {x y : Status} (h : statusCode x = statusCode y) : x = y := by
  rw [← Option.some_inj, ← statusOfCode_statusCode x, h, statusOfCode_statusCode]

/-- Settles O53: the rows of the table; a code determines its status, and a code without a row is no status's. -/
theorem statusCodes : Obligations.StatusCodes :=
  ⟨⟨rfl, rfl, rfl, rfl, rfl⟩,
    fun x => ⟨statusCode_ne_of_no_row rfl x, statusCode_ne_of_no_row rfl x, statusCode_ne_of_no_row rfl x⟩,
    fun _ _ => statusCode_injective⟩

end Sys2Proof.Machine

end

/-! # Reset and hazards: family 70_reset_and_hazards.md (O5) -/

section

namespace Sys2Proof.Machine

/-- Settles O5: of the cases of a step, every one but idling has a transaction pending. -/
theorem stepIdlesWithNothingPending : Obligations.StepIdlesWithNothingPending := by
  intro s hnil
  obtain ⟨_, hidle⟩ | ⟨t, rest, hcons, _⟩ := step_cases s
  · exact hidle
  · exact absurd (hnil.symm.trans hcons) (List.cons_ne_nil t rest).symm

end Sys2Proof.Machine

end
